-- ==== Sys2Proof/Word.lean ====
section
/-! DEFINITION. The word types of CBCORE (spec/00_scope.md R7, R8): registers and addresses are 64 bits, Host memory is
bytes, a window offset is 12 bits and a bus request 13. -/

namespace Sys2Proof

/-- A 64-bit register value or Host memory address (R7: RESULT_W = ADDR_W = ROM_W = 64). -/
abbrev Word := BitVec 64

/-- One byte of Host memory (20_memory.md R41). -/
abbrev Byte := BitVec 8

/-- A byte offset in the 4 KiB register window (30_encoding.md R68, field OFF). -/
abbrev Offset := BitVec 12

/-- A bus request word {WE, OFF} (30_encoding.md R68). -/
abbrev Request := BitVec 13

end Sys2Proof
end

