-- ==== Sys2Proof/Config.lean ====
section
/-! DEFINITION. What is fixed for the machine (spec/00_scope.md R7) and the free values: constants with no body, of which
nothing can be proved. The parameters UNIT_BASE and admits stand in State as plain data (notes/assumptions/13.md, 14.md). -/

namespace Sys2Proof.Config

/-- FOLD_EMPTY of R7, "false in this hardware" (93_implementation_defined.md U16; log 18). -/
def foldEmpty : Bool := false

/-- MAXLEN of R7: the longest slice, in bytes. -/
def maxLen : Nat := 20

/-- POW10_N of R7: the entries of the ROM. -/
def pow10N : Nat := 20

/-- The identity constant of 10_state.md R27. -/
def idWord : Word := 0x4342_434F_5245_0001#64

/-- The size in bytes of the register window (R15: 4 KiB). -/
def windowBytes : Nat := 4096

/-- UNIT_BASE at State.reset. DESIGN CHOICE, unsafe (log 14): R7 leaves UNIT_BASE open, and no statement rests on this value. -/
def unitBaseAtReset : Word := 0x4342_434F_0000_0000#64

/-- Free value: UNC_NONDIGIT of 40_parse.md R87, "a total function of the L slice bytes alone, returning 64 bits" (log 16). -/
opaque uncNondigit : List Byte → Word

/-- Free value: the output of the 32-bit primitive for a zero input (41_clz.md R103; log 17). -/
opaque clz32OfZero : BitVec 32

/-- Free value: a word of the ROM at an index past its last entry, which no command reads (10_state.md R32; log 26). -/
opaque romOutside : Nat → Word

/-- Free value: the byte Host memory holds at an address no Host step has written (R37; log 12). -/
opaque hostByte : Word → Byte

/-- Free value: what the bus carries for a Host read of an unwritten register (R38: "some unspecified value"), a
fresh one for each read (log 3). -/
opaque unwrittenValue : Nat → Word

/-- Free value: the value a tainted parse completes with (42_interface.md R113, "any 64 bits"; log 10). -/
opaque drawnValue : Nat → Word

/-- Free value: whether a tainted checked parse completes with INVALID_DIGIT instead (R113; log 10). -/
opaque drawnInvalidDigit : Nat → Bool

/-- Free value: what a Host variable no line has set holds (30_encoding.md R71 gives none; log 8). -/
opaque unsetVariable : Nat → Word

end Sys2Proof.Config
end

