-- ==== Sys2Proof/Syntax.lean ====
section
/-! DEFINITION. The instructions of CBCORE: one constructor per row of spec/opcode_table.json. The first six are what a
command word written to CMD selects (30_encoding.md R61, R62); the others are Host accesses to the register window (R69). -/

namespace Sys2Proof

/-- The opcode table, row by row. A command carries no operand (R64): it works on the latches. -/
inductive Instr
  /-- CLZ64, command word 0x4 (R104). -/
  | clz64
  /-- PARSEU.L, command word 0x8 (R90). -/
  | parseuL
  /-- PARSEU.E, command word 0x9 (R91). -/
  | parseuE
  /-- PARSEC.L, command word 0xA (R88). -/
  | parsecL
  /-- PARSEC.E, command word 0xB (R89). -/
  | parsecE
  /-- ILLEGAL: any other command word, here `word` (R62, R133). -/
  | illegal (word : Word)
  /-- WR ARG0 (R117). -/
  | wrArg0 (data : Word)
  /-- RD ARG0 (R119). -/
  | rdArg0
  /-- WR ARG1 (R118). -/
  | wrArg1 (data : Word)
  /-- RD ARG1 (R119). -/
  | rdArg1
  /-- WR CMD: the data is a command word (R111, R112). -/
  | wrCmd (word : Word)
  /-- RD CMD (R120). -/
  | rdCmd
  /-- WR RESULT (R122). -/
  | wrResult (data : Word)
  /-- RD RESULT (R121). -/
  | rdResult
  /-- WR STATUS (R124). -/
  | wrStatus (data : Word)
  /-- RD STATUS (R123). -/
  | rdStatus
  /-- WR ID (R125). -/
  | wrId (data : Word)
  /-- RD ID (R125). -/
  | rdId
  /-- WR at a reserved offset (R126). -/
  | wrRsvd (off : Offset) (data : Word)
  /-- RD at a reserved offset (R126). -/
  | rdRsvd (off : Offset)
  /-- REFUSED: an access of `width` bits whose width or offset the window does not support (R46). -/
  | refusedAccess (width : Nat) (request : Request)
  deriving DecidableEq, Repr

end Sys2Proof
end

