-- ==== Sys2Proof/WellFormed.lean ====
section
/-! DEFINITION. The checks on an instruction: its fields hold what the row of the opcode table admits. -/

namespace Sys2Proof

/-- The five legal command words (30_encoding.md R61). -/
def legalCommandWords : List Word := [0x4#64, 0x8#64, 0x9#64, 0xA#64, 0xB#64]

/-- An offset of the reserved part of the window: 0x030..0xFF8, a multiple of 8 (10_state.md R28, R69). -/
def isReservedOffset (off : Offset) : Bool := decide (0x030 ≤ off.toNat) && decide (off.toNat % 8 = 0)

/-- An access the window does not support: not 64 bits wide, or OFF[2:0] not 0 (30_encoding.md R68, 20_memory.md R46). -/
def isUnsupported (width : Nat) (request : Request) : Bool := decide (width ≠ 64) || decide (request.toNat % 8 ≠ 0)

/-- Every field of the instruction holds what its row of the table admits. -/
def Instr.wellFormed : Instr → Bool
  | .clz64 => true
  | .parseuL => true
  | .parseuE => true
  | .parsecL => true
  | .parsecE => true
  | .illegal w => !legalCommandWords.contains w
  | .wrArg0 _ => true
  | .rdArg0 => true
  | .wrArg1 _ => true
  | .rdArg1 => true
  | .wrCmd _ => true
  | .rdCmd => true
  | .wrResult _ => true
  | .rdResult => true
  | .wrStatus _ => true
  | .rdStatus => true
  | .wrId _ => true
  | .rdId => true
  | .wrRsvd off _ => isReservedOffset off
  | .rdRsvd off => isReservedOffset off
  | .refusedAccess width request => isUnsupported width request

end Sys2Proof
end

