-- ==== Sys2Proof/Decode.lean ====
section
/-! DEFINITION. The decoder, total on command words and on bus requests, and after it the encoder (spec/30_encoding.md).
Two things are encoded (R59): a command word, and a bus request with its width and write data. -/

namespace Sys2Proof

/-- What is encoded (R59): a 64-bit command word, or one Host access of `width` bits (64 for a supported access, R68). -/
inductive Encoding
  | command (word : Word)
  | bus (width : Nat) (request : Request) (data : Word)
  deriving DecidableEq, Repr

/-- Field RSV of a command word, bits 63:4 (R60). -/
def commandRsv (w : Word) : BitVec 60 := w.extractLsb' 4 60

/-- Field UNIT of a command word, bits 3:2 (R60). -/
def commandUnit (w : Word) : BitVec 2 := w.extractLsb' 2 2

/-- Field CHK of a command word, bit 1 (R60). -/
def commandChk (w : Word) : Bool := w.getLsbD 1

/-- Field END of a command word, bit 0 (R60). -/
def commandEnd (w : Word) : Bool := w.getLsbD 0

/-- Bits 3:0 of a command word, which select the command (R63). -/
def commandOpc (w : Word) : BitVec 4 := w.extractLsb' 0 4

/-- The command a word written to CMD selects (R63): total, every word that is not legal is `illegal`. -/
def decodeCommand (w : Word) : Instr :=
  if commandRsv w ≠ 0#60 then .illegal w
  else if commandOpc w = 0x4#4 then .clz64
  else if commandOpc w = 0x8#4 then .parseuL
  else if commandOpc w = 0x9#4 then .parseuE
  else if commandOpc w = 0xA#4 then .parsecL
  else if commandOpc w = 0xB#4 then .parsecE
  else .illegal w

/-- Field WE of a bus request, bit 12 (R68). -/
def requestWe (r : Request) : Bool := r.getLsbD 12

/-- Field OFF of a bus request, bits 11:0 (R68). -/
def requestOff (r : Request) : Offset := r.extractLsb' 0 12

/-- The write rows of R69, for an aligned offset. -/
def decodeWrite (off : Offset) (data : Word) : Instr :=
  if off = 0x000#12 then .wrArg0 data
  else if off = 0x008#12 then .wrArg1 data
  else if off = 0x010#12 then .wrCmd data
  else if off = 0x018#12 then .wrResult data
  else if off = 0x020#12 then .wrStatus data
  else if off = 0x028#12 then .wrId data
  else .wrRsvd off data

/-- The read rows of R69, for an aligned offset. -/
def decodeRead (off : Offset) : Instr :=
  if off = 0x000#12 then .rdArg0
  else if off = 0x008#12 then .rdArg1
  else if off = 0x010#12 then .rdCmd
  else if off = 0x018#12 then .rdResult
  else if off = 0x020#12 then .rdStatus
  else if off = 0x028#12 then .rdId
  else .rdRsvd off

/-- The access a bus request stands for (R69): total; another width or a misaligned offset is refused by name (R46). -/
def decodeBus (width : Nat) (request : Request) (data : Word) : Instr :=
  if width ≠ 64 then .refusedAccess width request
  else if (requestOff request).extractLsb' 0 3 ≠ 0#3 then .refusedAccess width request
  else if requestWe request then decodeWrite (requestOff request) data
  else decodeRead (requestOff request)

/-- The decoder, total on everything that is encoded. -/
def decode : Encoding → Instr
  | .command w => decodeCommand w
  | .bus width request data => decodeBus width request data

/-- A bus request word {WE, OFF} (R68). -/
def requestWord (we : Bool) (off : Offset) : Request := BitVec.ofBool we ++ off

/-- A supported read of the register at `off`. -/
def readAccess (off : Offset) : Encoding := .bus 64 (requestWord false off) 0#64

/-- A supported write of `data` to the register at `off`. -/
def writeAccess (off : Offset) (data : Word) : Encoding := .bus 64 (requestWord true off) data

/-- The encoder, written from the tables of R61 and R69. -/
def encode : Instr → Encoding
  | .clz64 => .command 0x4#64
  | .parseuL => .command 0x8#64
  | .parseuE => .command 0x9#64
  | .parsecL => .command 0xA#64
  | .parsecE => .command 0xB#64
  | .illegal w => .command w
  | .wrArg0 data => writeAccess 0x000#12 data
  | .rdArg0 => readAccess 0x000#12
  | .wrArg1 data => writeAccess 0x008#12 data
  | .rdArg1 => readAccess 0x008#12
  | .wrCmd w => writeAccess 0x010#12 w
  | .rdCmd => readAccess 0x010#12
  | .wrResult data => writeAccess 0x018#12 data
  | .rdResult => readAccess 0x018#12
  | .wrStatus data => writeAccess 0x020#12 data
  | .rdStatus => readAccess 0x020#12
  | .wrId data => writeAccess 0x028#12 data
  | .rdId => readAccess 0x028#12
  | .wrRsvd off data => writeAccess off data
  | .rdRsvd off => readAccess off
  | .refusedAccess width request => .bus width request 0#64

/-- Why a raw table word is no encoding (log 22). -/
inductive RawReject
  /-- The number of bits fits neither a request (at most 16), a command word (at most 64) nor a request with data (at most 80). -/
  | noSuchFormat (nbits : Nat)
  /-- A bit above the format's own bits is set. -/
  | bitsAbove (nbits w : Nat)
  deriving DecidableEq, Repr

/-- Read a raw table word of `nbits` bits (log 22): up to 16 bits, a bus request with data 0; up to 64, a command word; up
to 80, a bus request in the first 16 bits and its data above them. -/
def readRaw (nbits w : Nat) : Except RawReject Encoding :=
  if nbits = 0 then .error (.noSuchFormat nbits)
  else if nbits ≤ 16 then
    if w < 2 ^ 13 then .ok (.bus 64 (BitVec.ofNat 13 w) 0#64) else .error (.bitsAbove nbits w)
  else if nbits ≤ 64 then
    if w < 2 ^ 64 then .ok (.command (BitVec.ofNat 64 w)) else .error (.bitsAbove nbits w)
  else if nbits ≤ 80 then
    if w % 2 ^ 16 < 2 ^ 13 ∧ w < 2 ^ 80 then
      .ok (.bus 64 (BitVec.ofNat 13 (w % 2 ^ 16)) (BitVec.ofNat 64 (w / 2 ^ 16)))
    else .error (.bitsAbove nbits w)
  else .error (.noSuchFormat nbits)

/-- The instruction the decoder reads from a table word; none where `readRaw` rejects it. -/
def decodeTableWord (nbits w : Nat) : Option Instr :=
  match readRaw nbits w with
  | .ok e => some (decode e)
  | .error _ => none

/-- How the two operands of a parse command give its slice (30_encoding.md R66, R67). -/
inductive SliceForm
  | beginLength
  | beginEnd
  deriving DecidableEq, Repr

/-- The slice form of a parse command; none for every other instruction. -/
def Instr.sliceForm : Instr → Option SliceForm
  | .parsecL | .parseuL => some .beginLength
  | .parsecE | .parseuE => some .beginEnd
  | .clz64 | .illegal _ => none
  | .wrArg0 _ | .rdArg0 | .wrArg1 _ | .rdArg1 | .wrCmd _ | .rdCmd | .wrResult _ | .rdResult => none
  | .wrStatus _ | .rdStatus | .wrId _ | .rdId | .wrRsvd _ _ | .rdRsvd _ | .refusedAccess _ _ => none

end Sys2Proof
end

