-- ==== Sys2Proof/Machine/Assoc.lean ====
section
/-! DEFINITION. Sparse data in one canonical form: a list of (key, value) pairs with strictly rising keys. It holds Host
memory (address, byte) and the Host's variables. Nothing unlisted has an entry, so no write ever removes one (log 12). -/

namespace Sys2Proof.Machine.Assoc

variable {α : Type}

/-- The value listed for `k`, if any. -/
def get? (k : Nat) : List (Nat × α) → Option α
  | [] => none
  | (k', v) :: rest => if k = k' then some v else get? k rest

/-- List `v` for `k`, in place of what was listed. -/
def set (k : Nat) (v : α) : List (Nat × α) → List (Nat × α)
  | [] => [(k, v)]
  | (k', v') :: rest =>
    if k < k' then (k, v) :: (k', v') :: rest
    else if k = k' then (k, v) :: rest
    else (k', v') :: set k v rest

/-- The canonical form: keys strictly rising, each below `bound`. -/
abbrev wf (bound : Nat) (m : List (Nat × α)) : Prop :=
  m.Pairwise (fun a b => a.1 < b.1) ∧ ∀ c ∈ m, c.1 < bound

end Sys2Proof.Machine.Assoc
end

