-- ==== Sys2Proof/Machine/HostProgram.lean ====
section
/-! DEFINITION. The Host program language of spec/30_encoding.md R71: bus accesses, Host-side computation and jumps, and the
pseudo-instructions of R72 and R73 with their expansions. Only the bus accesses reach the block. The grammar of
expressions and conditions is the model's (DESIGN CHOICE, log 8): R71 names them without listing their operators. -/

namespace Sys2Proof.Machine

/-- A Host-side variable, by number. -/
abbrev Var := Nat

/-- A label: one the program names, or the poll_k and skip_k of R72 and R73. -/
inductive Label
  | named (n : Nat)
  | poll (k : Nat)
  | skip (k : Nat)
  deriving DecidableEq, Repr

/-- A Host-side expression: "unsigned 64-bit, modulo 2^64" (R71). -/
inductive Expr
  | const (w : Word)
  | var (x : Var)
  | add (a b : Expr)
  | sub (a b : Expr)
  | mul (a b : Expr)
  /-- `v[i]`: one bit, as 0 or 1 (R8). -/
  | bit (a : Expr) (i : Nat)
  deriving DecidableEq, Repr

/-- A Host-side condition; comparisons are unsigned (R9). -/
inductive Cond
  | eq (a b : Expr)
  | lt (a b : Expr)
  | not (c : Cond)
  deriving DecidableEq, Repr

/-- A register of the window by its name in R71. -/
inductive WindowReg
  | arg0 | arg1 | cmd | result | status | id
  | rsvd (off : Offset)
  deriving DecidableEq, Repr

/-- The register's offset (10_state.md R15). DESIGN CHOICE: the <off> of `RSVD+<off>`, of which R71 does not say whether it counts
from the window's base or from 0x030, is the offset in the window (log 28). -/
def WindowReg.offset : WindowReg → Offset
  | .arg0 => 0x000#12
  | .arg1 => 0x008#12
  | .cmd => 0x010#12
  | .result => 0x018#12
  | .status => 0x020#12
  | .id => 0x028#12
  | .rsvd off => off

/-- A line of a Host program (R71), the Host's own memory accesses (R3, R130), and a raw access of any width and request. -/
inductive HostLine
  | wr (reg : WindowReg) (value : Expr)
  | rd (reg : WindowReg) (into : Var)
  | access (width : Nat) (request : Request) (data : Word)
  | set (x : Var) (value : Expr)
  | label (l : Label)
  | ifGoto (c : Cond) (l : Label)
  | store (address value : Expr)
  | load (address : Expr) (into : Var)
  deriving DecidableEq, Repr

/-- The Host agent: its program, the lines still to run, and its variables. -/
structure HostAgent where
  program : List HostLine
  rest    : List HostLine
  vars    : List (Nat × Word)
  deriving DecidableEq, Repr

/-- The value of a Host variable; one no line has set holds a free value (log 8). -/
def readVar (vars : List (Nat × Word)) (x : Var) : Word := (Assoc.get? x vars).getD (Config.unsetVariable x)

/-- The value of a Host-side expression. -/
def Expr.eval (vars : List (Nat × Word)) : Expr → Word
  | .const w => w
  | .var x => readVar vars x
  | .add a b => a.eval vars + b.eval vars
  | .sub a b => a.eval vars - b.eval vars
  | .mul a b => a.eval vars * b.eval vars
  | .bit a i => (BitVec.ofBool ((a.eval vars).getLsbD i)).setWidth 64

/-- Whether a Host-side condition holds. -/
def Cond.holds (vars : List (Nat × Word)) : Cond → Bool
  | .eq a b => decide (a.eval vars = b.eval vars)
  | .lt a b => decide ((a.eval vars).toNat < (b.eval vars).toNat)
  | .not c => !c.holds vars

/-- The lines of a program after its first `label l` line. -/
def afterLabel (l : Label) : List HostLine → Option (List HostLine)
  | [] => none
  | line :: lines => if line = .label l then some lines else afterLabel l lines

/-- `POLL -> s` (R72). -/
def pollLines (k : Nat) (s : Var) : List HostLine :=
  [.label (.poll k), .rd .status s, .ifGoto (.eq (.bit (.var s) 0) (.const 1#64)) (.poll k)]

/-- `WR CMD, <mnemonic>`: the command word of an instruction that is one (R71). -/
def writeCommand (i : Instr) : List HostLine :=
  match encode i with
  | .command w => [.wr .cmd (.const w)]
  | .bus _ _ _ => []

/-- `CALL.CLZ x -> r, s` (R73). -/
def callClz (k : Nat) (x : Expr) (r s : Var) : List HostLine :=
  [.wr .arg0 x] ++ writeCommand .clz64 ++ pollLines k s ++ [.rd .result r]

/-- `CALL.PARSEC.L`, `CALL.PARSEC.E`, `CALL.PARSEU.L` and `CALL.PARSEU.E` (R73): one shape, the command apart. -/
def callParse (i : Instr) (k : Nat) (b n : Expr) (r s : Var) : List HostLine :=
  [.wr .arg0 b, .wr .arg1 n] ++ writeCommand i ++ pollLines k s ++
    [.ifGoto (.eq (.bit (.var s) 1) (.const 0#64)) (.skip k), .rd .result r, .label (.skip k)]

/-- Every jump of a program has its label in it, once. -/
def wellFormedProgram (p : List HostLine) : Bool :=
  p.all fun line =>
    match line with
    | .ifGoto _ l => decide (p.count (.label l) = 1)
    | .wr _ _ | .rd _ _ | .access _ _ _ | .set _ _ | .label _ | .store _ _ | .load _ _ => true

end Sys2Proof.Machine
end

