-- ==== Sys2Proof/Machine/State.lean ====
section
/-! DEFINITION. The state of the machine: the block's own state (spec/10_state.md R39), the Host it works with, and the
model's bookkeeping. INVENTORY.md lists every field with its rule and its reset value. -/

namespace Sys2Proof.Machine

/-- A register that carries the "unwritten" marker of 10_state.md R38; `value` means nothing while the marker is set. -/
structure MarkedReg where
  value     : Word
  unwritten : Bool
  deriving DecidableEq, Repr

/-- A register no write has reached since reset (R38). The value under the marker is DESIGN CHOICE 0 (log 1). -/
def MarkedReg.atReset : MarkedReg := { value := 0#64, unwritten := true }

/-- A register that holds a written value. -/
def MarkedReg.written (v : Word) : MarkedReg := { value := v, unwritten := false }

/-- The latches of the command in flight (R33) and its TAINT flag (R35). -/
structure Flight where
  lop   : Word
  la0   : MarkedReg
  la1   : MarkedReg
  taint : Bool
  deriving DecidableEq, Repr

/-- The faults the model records in State (60_exceptions.md R143): recorded, never cleared but by reset (log 2). -/
inductive RecordedFault
  /-- A completion body read a latch that holds the unwritten marker. Safe: the hardware computes with some value. -/
  | unwrittenOperand
  /-- A Host RD of ARG0, ARG1 or RESULT while it is unwritten. Safe, likewise. -/
  | unwrittenRegister
  deriving DecidableEq, Repr

/-- Bytes of the Host address space, from `base` upward, modulo 2^64. -/
structure Region where
  base : Word
  size : Nat
  deriving DecidableEq, Repr

/-- The OPEN parameters of 00_scope.md R7 that the platform fixes: UNIT_BASE, and the regions whose Unit reads it does not
answer (the complement of `admits`). Plain data that no step writes (log 13, log 14). -/
structure Platform where
  unitBase   : Word
  unanswered : List Region
  deriving DecidableEq, Repr

/-- Which agent moves next (R158; log 7): the Host, the Unit, or the platform's reset (70_reset_and_hazards.md R146). -/
inductive Turn
  | host
  | unit
  | reset
  deriving DecidableEq, Repr

/-- Host memory: the bytes Host steps have written, by address (R37; log 12). -/
abbrev Memory := List Host.Cell

structure State where
  /-- ARG0 (R17). -/
  arg0        : MarkedReg
  /-- ARG1 (R18). -/
  arg1        : MarkedReg
  /-- RESULT (R20). -/
  result      : MarkedReg
  /-- STATUS.RV (R23). -/
  rv          : Bool
  /-- STATUS.DROP (R24). -/
  drop        : Bool
  /-- STATUS.ERR (R25). -/
  err         : BitVec 4
  /-- LOP, LA0, LA1 and TAINT; none when no command is in flight. STATUS.BUSY (R22) is a view of it (log 19). -/
  flight      : Option Flight
  /-- The fault record (R39, R143). -/
  faultRecord : Option RecordedFault
  /-- The refusal mark (R39, R143). -/
  refusalMark : Bool
  /-- Host memory (R36, R37). -/
  memory      : Memory
  /-- The Host agent (R3, R71). -/
  host        : HostAgent
  /-- UNIT_BASE and admits (R7). -/
  platform    : Platform
  /-- The model's own: which agents move next, in order (log 7). -/
  turns       : List Turn
  /-- The model's own: the 64-bit value the last Host RD returned (log 9). -/
  readData    : Word
  /-- The model's own: how many free values have been taken (log 10). -/
  draws       : Nat
  deriving DecidableEq, Repr

/-- Why a step has no next state. -/
inductive Fault
  /-- Raised by a parse command whose slice has a byte `admits` rejects: "the Unit has no step and stays BUSY (stuck)"
  (20_memory.md R50; log 5). Safe: the hardware may go on. -/
  | stuckSlice
  /-- Raised by a command while a fault is recorded: "record F; the Unit takes no further step (BUSY stays 1)" (R113), which
  R143 gives to both of its faults (log 5). The fault itself was a next state, and the Host goes on. Safe. -/
  | unitHalted
  /-- Raised by a command when no command is in flight: the Unit's step exists only while BUSY = 1 (R113; log 5). Safe. -/
  | noCommandInFlight
  deriving DecidableEq, Repr

/-- Why a step is not given a meaning. -/
inductive Refusal
  /-- Raised by exec for an instruction that has no meaning yet. Safe. -/
  | notModelled (mnemonic : String)
  /-- Raised by a turn of the Host or the Unit once the refusal mark is set: it is "set for the whole state" (R143;
  log 4). Safe. -/
  | refusalMarked
  /-- Raised by a Host line that jumps to a label its program does not hold; R71 gives such a line no meaning (log 8). Safe. -/
  | unknownLabel (l : Label)
  deriving DecidableEq, Repr

/-- The machine right after reset (R146): STATUS 0, ARG0, ARG1 and RESULT unwritten, nothing in flight, no fault record and
no refusal mark. The Host has no program and has written no byte; what the spec leaves open is as logs 1, 7 to 10 and 12
to 14 say. -/
def State.reset : State where
  arg0        := .atReset
  arg1        := .atReset
  result      := .atReset
  rv          := false
  drop        := false
  err         := 0#4
  flight      := none
  faultRecord := none
  refusalMark := false
  memory      := []
  host        := { program := [], rest := [], vars := [] }
  platform    := { unitBase := Config.unitBaseAtReset, unanswered := [] }
  turns       := []
  readData    := 0#64
  draws       := 0

end Sys2Proof.Machine
end

