-- ==== Sys2Proof/Machine/Flags.lean ====
section
/-! DEFINITION. STATUS and its fields (spec/10_state.md R21 to R26): the only flags of the block (R29). The error codes are
those of 60_exceptions.md R131. -/

namespace Sys2Proof.Machine

/-- The errors a command can complete with (R131). -/
inductive ErrorCode
  | invalidDigit
  | lengthOutOfRange
  | emptyInput
  | illegalCommand
  deriving DecidableEq, Repr

/-- The code of an error in STATUS.ERR (R131). -/
def ErrorCode.code : ErrorCode → BitVec 4
  | .invalidDigit => 1#4
  | .lengthOutOfRange => 2#4
  | .emptyInput => 3#4
  | .illegalCommand => 4#4

/-- The code 0, NONE (R131). -/
def noError : BitVec 4 := 0#4

/-- STATUS.BUSY: 1 from the accept of a command until its completion (R22). -/
def State.busy (s : State) : Bool := s.flight.isSome

/-- TAINT of the command in flight; 0 when there is none (R35). -/
def State.taint (s : State) : Bool :=
  match s.flight with
  | some f => f.taint
  | none => false

/-- The value of STATUS a read returns: {56'b0, ERR[3:0], 1'b0, DROP, RV, BUSY} (42_interface.md R123). -/
def State.statusWord (s : State) : Word :=
  0#56 ++ s.err ++ 0#1 ++ BitVec.ofBool s.drop ++ BitVec.ofBool s.rv ++ BitVec.ofBool s.busy

/-- The STATUS fields right after an accept (R111), but for BUSY. -/
def State.clearStatus (s : State) : State := { s with rv := false, err := noError, drop := false }

/-- The STATUS fields right after a completion (R115, R116), but for BUSY; DROP is unchanged. -/
def State.setOutcome (ok : Bool) (code : BitVec 4) (s : State) : State := { s with rv := ok, err := code }

end Sys2Proof.Machine
end

