-- ==== Sys2Proof/Machine/Ops.lean ====
section
/-! DEFINITION. The named operations over memory and registers that the meanings share: accept and drop (42_interface.md
R111, R112), completion with a value or an error (R115, R116, and 60_exceptions.md R132: an error IS a completion, the block has no trap
entry and no return from one, R140), recording a fault, setting the refusal mark, reading and writing Host memory, reset. -/

namespace Sys2Proof.Machine

/-- What a next state, a fault or a refusal of this machine is. -/
abbrev Result := Host.Outcome State Fault Refusal

/-- Whether an outcome is a next state. -/
def isNext : Result → Bool
  | .next _ => true
  | .fault _ => false
  | .refused _ => false

/-! ## Memory -/

/-- `MemRead(a, 1)` (20_memory.md R41): the byte of Host memory at `a`; where no Host step has written, a free value (log 12). -/
def readByte (m : Memory) (a : Word) : Byte := (Assoc.get? a.toNat m).getD (Config.hostByte a)

/-- A Host write of one byte of Host memory (42_interface.md R130). -/
def writeByte (m : Memory) (a : Word) (b : Byte) : Memory := Assoc.set a.toNat b m

/-- The canonical form of Host memory: addresses strictly rising, each a 64-bit address. -/
abbrev Memory.wf (m : Memory) : Prop := Assoc.wf (2 ^ 64) m

/-- The bytes of a text from `a` upward: the start states of 30_encoding.md R71 (`MEM[a] <- "text"`). -/
def writeBytes (m : Memory) (a : Word) : List Byte → Memory
  | [] => m
  | b :: bs => writeBytes (writeByte m a b) (a + 1#64) bs

/-! ## Registers -/

/-- A Host write of ARG0 (R117). -/
def State.setArg0 (v : Word) (s : State) : State := { s with arg0 := .written v }

/-- A Host write of ARG1 (R118). -/
def State.setArg1 (v : Word) (s : State) : State := { s with arg1 := .written v }

/-- A Host read that returns `v` (R119 to R126): the block's state is unchanged. -/
def State.setReadData (v : Word) (s : State) : State := { s with readData := v }

/-- One more free value has been taken (log 10). -/
def State.countDraw (s : State) : State := { s with draws := s.draws + 1 }

/-- Record a fault (R143): "recorded, never cleared", so the first one stays (log 2). -/
def State.recordFault (r : RecordedFault) (s : State) : State :=
  { s with faultRecord := some (s.faultRecord.getD r) }

/-- Set the refusal mark (20_memory.md R46); nothing else changes. -/
def State.markRefused (s : State) : State := { s with refusalMark := true }

/-! ## The command lifecycle -/

/-- Accept of command word `w` (R111). -/
def State.accept (w : Word) (s : State) : State :=
  { s.clearStatus with flight := some { lop := w, la0 := s.arg0, la1 := s.arg1, taint := false } }

/-- A CMD write while BUSY = 1 is discarded: only DROP changes (R112). -/
def State.dropCommand (s : State) : State := { s with drop := true }

/-- How a command body ends when it ends in a completion (R114). -/
inductive CommandOutcome
  | value (v : Word)
  | error (e : ErrorCode)
  deriving DecidableEq, Repr

/-- Completion with a value (R115) or with an error (R116): RESULT, STATUS, and the latches cleared (R113). -/
def State.complete (o : CommandOutcome) (s : State) : State :=
  match o with
  | .value v => { s.setOutcome true noError with result := .written v, flight := none }
  | .error e => { s.setOutcome false e.code with flight := none }

/-- The Unit's one step (R113): it exists while a command is in flight and no fault is recorded, since after a recorded fault "the
Unit takes no further step" (R113, R143); `body` runs on the latches. -/
def unitStep (body : Flight → State → Result) (s : State) : Result :=
  match s.flight with
  | none => .fault .noCommandInFlight
  | some f =>
    match s.faultRecord with
    | some _ => .fault .unitHalted
    | none => body f s

/-! ## Reset -/

/-- Reset (70_reset_and_hazards.md R146, R147): every piece of the block's state takes its reset value. What is not the
block's stays: Host memory, the Host, the platform, the turns, the last value read, the count of free values (log 20). -/
def State.resetBlock (s : State) : State :=
  { State.reset with
    memory := s.memory, host := s.host, platform := s.platform, turns := s.turns, readData := s.readData, draws := s.draws }

end Sys2Proof.Machine
end

