-- ==== Sys2Proof/Machine/Bus.lean ====
section
/-! DEFINITION. The Host accesses to the register window (spec/42_interface.md R111, R112, R117 to R126, and R46). -/

namespace Sys2Proof.Machine

/-- A Host read of a register that carries the unwritten marker: its value; while unwritten, the fault UnwrittenRegister
is recorded (R119, R121) and what the bus carries is a free value. DESIGN CHOICE (log 3): each such read takes a fresh free
value, so two reads of one still-unwritten register need not agree. -/
def readMarked (r : MarkedReg) (s : State) : Result :=
  if r.unwritten then .next ((s.recordFault .unwrittenRegister).setReadData (Config.unwrittenValue s.draws)).countDraw
  else .next (s.setReadData r.value)

/-- WR ARG0 (R117), whether BUSY is 0 or 1. -/
def execWrArg0 (data : Word) (s : State) : Result := .next (s.setArg0 data)

/-- RD ARG0 (R119). -/
def execRdArg0 (s : State) : Result := readMarked s.arg0 s

/-- WR ARG1 (R118), whether BUSY is 0 or 1. -/
def execWrArg1 (data : Word) (s : State) : Result := .next (s.setArg1 data)

/-- RD ARG1 (R119). -/
def execRdArg1 (s : State) : Result := readMarked s.arg1 s

/-- WR CMD: accepted while BUSY = 0 (R111), dropped while BUSY = 1 (R112). -/
def execWrCmd (word : Word) (s : State) : Result := if s.busy then .next s.dropCommand else .next (s.accept word)

/-- RD CMD returns 0 (R120). -/
def execRdCmd (s : State) : Result := .next (s.setReadData 0#64)

/-- WR RESULT: no effect (R122). -/
def execWrResult (_data : Word) (s : State) : Result := .next s

/-- RD RESULT (R121). -/
def execRdResult (s : State) : Result := readMarked s.result s

/-- WR STATUS: no effect (R124). -/
def execWrStatus (_data : Word) (s : State) : Result := .next s

/-- RD STATUS (R123). -/
def execRdStatus (s : State) : Result := .next (s.setReadData s.statusWord)

/-- WR ID: no effect (R125). -/
def execWrId (_data : Word) (s : State) : Result := .next s

/-- RD ID returns the identity constant (R125, R27). -/
def execRdId (s : State) : Result := .next (s.setReadData Config.idWord)

/-- WR at a reserved offset: no effect (R126). -/
def execWrRsvd (_off : Offset) (_data : Word) (s : State) : Result := .next s

/-- RD at a reserved offset returns 0 (R126). -/
def execRdRsvd (_off : Offset) (s : State) : Result := .next (s.setReadData 0#64)

/-- REFUSED: "the model sets its refusal mark and takes no step for it" (R46; log 4). -/
def execRefusedAccess (_width : Nat) (_request : Request) (s : State) : Result := .next s.markRefused

end Sys2Proof.Machine
end

