-- ==== Sys2Proof/Machine/Operands.lean ====
section
/-! DEFINITION. The operands of the commands: the slice of a parse command (spec/00_scope.md R12, 30_encoding.md R66, R67),
its addresses, the platform's admission of them (20_memory.md R50, R51) and the bytes it covers. -/

namespace Sys2Proof.Machine

/-- A slice (B, L) (R12). -/
structure Slice where
  start  : Word
  length : Word
  deriving DecidableEq, Repr

/-- The slice the two latched operands give: L = LA1 (R66), or L = (LA1 - LA0) mod 2^64, the end exclusive (R67). -/
def sliceOf (form : SliceForm) (la0 la1 : Word) : Slice :=
  match form with
  | .beginLength => { start := la0, length := la1 }
  | .beginEnd => { start := la0, length := la1 - la0 }

/-- The address of byte p of a slice: (B + p) mod 2^64 (R12). -/
def Slice.address (sl : Slice) (p : Nat) : Word := sl.start + BitVec.ofNat 64 p

/-- The addresses of a slice, first byte first. -/
def Slice.addresses (sl : Slice) : List Word := (List.range sl.length.toNat).map sl.address

/-- Whether an address is that of a byte of the slice. -/
def Slice.covers (sl : Slice) (a : Word) : Bool := decide ((a - sl.start).toNat < sl.length.toNat)

/-- Whether a region holds an address; a region may wrap past 2^64 - 1. -/
def Region.contains (r : Region) (a : Word) : Bool := decide ((a - r.base).toNat < r.size)

/-- The register window in the Host's address space (R15, R51). -/
def Platform.window (p : Platform) : Region := { base := p.unitBase, size := Config.windowBytes }

/-- `admits(a)` (R7, R50): the platform answers a Unit read at `a`. It is false in the register window (R51; log 13). -/
def Platform.admits (p : Platform) (a : Word) : Bool :=
  !p.window.contains a && !p.unanswered.any (fun r => r.contains a)

/-- Admission of a whole slice (R50): `admits` holds for every byte of it. -/
def Platform.admitsSlice (p : Platform) (sl : Slice) : Bool := sl.addresses.all p.admits

/-- The bytes of a slice in Host memory, b[0] first (R12, R43). -/
def sliceBytes (m : Memory) (sl : Slice) : List Byte := sl.addresses.map (readByte m)

/-- The length check (40_parse.md R77), for a value of FOLD_EMPTY: none is OK. -/
def lencheckWith (foldEmpty : Bool) (length : Word) : Option ErrorCode :=
  if length.toNat = 0 then some (if foldEmpty then .lengthOutOfRange else .emptyInput)
  else if length.toNat > Config.maxLen then some .lengthOutOfRange
  else none

/-- The length check of this hardware (R77, FOLD_EMPTY = false). -/
def lencheck (length : Word) : Option ErrorCode := lencheckWith Config.foldEmpty length

/-- Whether a Host write at `a` sets TAINT of the command in flight (20_memory.md R55): a parse command with both operands
written, whose length is 1 to 20, and whose slice covers `a` (log 11). -/
def Flight.sliceHit (f : Flight) (a : Word) : Bool :=
  match (decodeCommand f.lop).sliceForm with
  | none => false
  | some form =>
    !f.la0.unwritten && !f.la1.unwritten &&
      (lencheck (sliceOf form f.la0.value f.la1.value).length).isNone && (sliceOf form f.la0.value f.la1.value).covers a

/-- The command in flight after a Host write at `a` (R55). -/
def Flight.hostWrote (f : Flight) (a : Word) : Flight := { f with taint := f.taint || f.sliceHit a }

/-- A Host write of one byte of Host memory: the byte, and TAINT (R55, R130). -/
def State.hostWrite (a : Word) (b : Byte) (s : State) : State :=
  { s with memory := writeByte s.memory a b, flight := s.flight.map (fun f => f.hostWrote a) }

end Sys2Proof.Machine
end

