-- ==== Sys2Proof/Machine/Clz.lean ====
section
/-! DEFINITION. The leading-zero counter (spec/41_clz.md): the 32-bit primitive, the conditional halving, and CLZ64. -/

namespace Sys2Proof.Machine

/-- The highest set bit of `v` among its bits k..0, searched downward; 0 if none of bits k..1 is set. -/
def msbBelow (v : BitVec 32) : Nat → Nat
  | 0 => 0
  | k + 1 => if v.getLsbD (k + 1) then k + 1 else msbBelow v k

/-- msb(v): "the largest i in 0..31 with v[i] = 1" (R101). -/
def msb (v : BitVec 32) : Nat := msbBelow v 31

/-- The 32-bit primitive: 31 - msb(v) for v not 0 (R101); for 0 a free value (R103; log 17). -/
def clz32 (v : BitVec 32) : BitVec 32 := if v = 0#32 then Config.clz32OfZero else BitVec.ofNat 32 (31 - msb v)

/-- The count of CLZ64 (R104), held in 32 bits. -/
def clz64Count (x : Word) : BitVec 32 :=
  let hi := x.extractLsb' 32 32
  let lo := x.extractLsb' 0 32
  if hi ≠ 0#32 then clz32 hi
  else if lo ≠ 0#32 then 32#32 + clz32 lo
  else 64#32

/-- CLZ64 (R104): reads LA0 only (R109). -/
def execClz64 (s : State) : Result :=
  unitStep (fun f s =>
    if f.la0.unwritten then .next (s.recordFault .unwrittenOperand)
    else .next (s.complete (.value ((clz64Count f.la0.value).setWidth 64)))) s

end Sys2Proof.Machine
end

