-- ==== Sys2Proof/Machine/Illegal.lean ====
section
/-! DEFINITION. The completion of an illegal command word (spec/30_encoding.md R62, 60_exceptions.md R133). -/

namespace Sys2Proof.Machine

/-- ILLEGAL: completes with ILLEGAL_COMMAND, reading no latch and no memory; the word is not kept (R133). -/
def execIllegal (_word : Word) (s : State) : Result := unitStep (fun _ s => .next (s.complete (.error .illegalCommand))) s

end Sys2Proof.Machine
end

