-- ==== Sys2Proof/Machine/Parse.lean ====
section
/-! DEFINITION. The digit parser (spec/40_parse.md) with its POW10 ROM (10_state.md R30): the digit test, the accumulation,
the body the four parse commands share, and the four commands. -/

namespace Sys2Proof.Machine

/-- The POW10 ROM (10_state.md R30), entry 0 first: constant, read only here (R31). -/
def pow10Rom : List Word :=
  [0x8AC7_2304_89E8_0000#64, 0x0DE0_B6B3_A764_0000#64, 0x0163_4578_5D8A_0000#64, 0x0023_86F2_6FC1_0000#64] ++
  [0x0003_8D7E_A4C6_8000#64, 0x0000_5AF3_107A_4000#64, 0x0000_0918_4E72_A000#64, 0x0000_00E8_D4A5_1000#64] ++
  [0x0000_0017_4876_E800#64, 0x0000_0002_540B_E400#64, 0x0000_0000_3B9A_CA00#64, 0x0000_0000_05F5_E100#64] ++
  [0x0000_0000_0098_9680#64, 0x0000_0000_000F_4240#64, 0x0000_0000_0001_86A0#64, 0x0000_0000_0000_2710#64] ++
  [0x0000_0000_0000_03E8#64, 0x0000_0000_0000_0064#64, 0x0000_0000_0000_000A#64, 0x0000_0000_0000_0001#64]

/-- ROM[j]; past the last entry a free value, which no command reads (R32, R95; log 26). -/
def rom (j : Nat) : Word := pow10Rom[j]?.getD (Config.romOutside j)

/-- The digit test: ((c - 0x30) mod 2^8) <= 9, unsigned (R78). -/
def isDigit (c : Byte) : Bool := decide ((c - 0x30#8).toNat ≤ 9)

/-- The value of a digit byte, zero-extended (R79). -/
def digitValue (c : Byte) : Word := (c - 0x30#8).setWidth 64

/-- idx(L, p) = 20 - L + p (R80). -/
def romIndex (length p : Nat) : Nat := Config.pow10N - length + p

/-- The sum of digit values times ROM entries from index `i` on, one index a digit, modulo 2^64 (R80, R81). -/
def accumFrom (i : Nat) : List Byte → Word
  | [] => 0#64
  | c :: cs => digitValue c * rom i + accumFrom (i + 1) cs

/-- ACCUM(b, L) (R81): position p of a slice of length L uses ROM entry idx(L, p). -/
def accum (bs : List Byte) : Word := accumFrom (romIndex bs.length 0) bs

/-- The sequencing of R84: groups of four while at least four digits remain, then one at a time. -/
def accumGrouped (i : Nat) (acc : Word) : List Byte → Word
  | c0 :: c1 :: c2 :: c3 :: cs =>
    accumGrouped (i + 4)
      (acc + (digitValue c0 * rom i + digitValue c1 * rom (i + 1) + digitValue c2 * rom (i + 2) + digitValue c3 * rom (i + 3))) cs
  | [] => acc
  | c :: cs => accumGrouped (i + 1) (acc + digitValue c * rom i) cs

/-- CHECKED(b, L) (R86) and UNCHECKED(b, L) (R87). -/
def parseOutcome (checked : Bool) (bs : List Byte) : CommandOutcome :=
  if bs.all isDigit then .value (accum bs)
  else if checked then .error .invalidDigit
  else .value (Config.uncNondigit bs)

/-- The drawn outcome of a tainted parse (42_interface.md R113): any value, or INVALID_DIGIT for a checked command (log 10). -/
def drawnOutcome (checked : Bool) (n : Nat) : CommandOutcome :=
  if checked && Config.drawnInvalidDigit n then .error .invalidDigit else .value (Config.drawnValue n)

/-- The completion body of a parse command (R88 to R91, in the order of 60_exceptions.md R137): operands, length check,
admission of the whole slice, and the outcome, drawn if the slice was written while the command was in flight. -/
def parseBody (checked : Bool) (form : SliceForm) (f : Flight) (s : State) : Result :=
  if f.la0.unwritten || f.la1.unwritten then .next (s.recordFault .unwrittenOperand)
  else
    match lencheck (sliceOf form f.la0.value f.la1.value).length with
    | some e => .next (s.complete (.error e))
    | none =>
      if s.platform.admitsSlice (sliceOf form f.la0.value f.la1.value) then
        if f.taint then .next (s.complete (drawnOutcome checked s.draws)).countDraw
        else .next (s.complete (parseOutcome checked (sliceBytes s.memory (sliceOf form f.la0.value f.la1.value))))
      else .fault .stuckSlice

/-- PARSEC.L (R88). -/
def execParsecL (s : State) : Result := unitStep (parseBody true .beginLength) s

/-- PARSEC.E (R89). -/
def execParsecE (s : State) : Result := unitStep (parseBody true .beginEnd) s

/-- PARSEU.L (R90). -/
def execParseuL (s : State) : Result := unitStep (parseBody false .beginLength) s

/-- PARSEU.E (R91). -/
def execParseuE (s : State) : Result := unitStep (parseBody false .beginEnd) s

end Sys2Proof.Machine
end

