-- ==== Sys2Proof/Machine/Dispatch.lean ====
section
/-! DEFINITION. exec: one arm per instruction. A command's meaning is its completion, the Unit's step (R113, R114); a bus
request's meaning is the Host's access. -/

namespace Sys2Proof.Machine

def exec (i : Instr) (s : State) : Host.Outcome State Fault Refusal :=
  match i with
  | .clz64 => Sys2Proof.Machine.execClz64 s
  | .parseuL => Sys2Proof.Machine.execParseuL s
  | .parseuE => Sys2Proof.Machine.execParseuE s
  | .parsecL => Sys2Proof.Machine.execParsecL s
  | .parsecE => Sys2Proof.Machine.execParsecE s
  | .illegal word => Sys2Proof.Machine.execIllegal word s
  | .wrArg0 data => Sys2Proof.Machine.execWrArg0 data s
  | .rdArg0 => Sys2Proof.Machine.execRdArg0 s
  | .wrArg1 data => Sys2Proof.Machine.execWrArg1 data s
  | .rdArg1 => Sys2Proof.Machine.execRdArg1 s
  | .wrCmd word => Sys2Proof.Machine.execWrCmd word s
  | .rdCmd => Sys2Proof.Machine.execRdCmd s
  | .wrResult data => Sys2Proof.Machine.execWrResult data s
  | .rdResult => Sys2Proof.Machine.execRdResult s
  | .wrStatus data => Sys2Proof.Machine.execWrStatus data s
  | .rdStatus => Sys2Proof.Machine.execRdStatus s
  | .wrId data => Sys2Proof.Machine.execWrId data s
  | .rdId => Sys2Proof.Machine.execRdId s
  | .wrRsvd off data => Sys2Proof.Machine.execWrRsvd off data s
  | .rdRsvd off => Sys2Proof.Machine.execRdRsvd off s
  | .refusedAccess width request => Sys2Proof.Machine.execRefusedAccess width request s

end Sys2Proof.Machine
end

