-- ==== Sys2Proof/Machine/Agents.lean ====
section
/-! DEFINITION. The two agents (spec/00_scope.md R3) and whose turn it is (70_reset_and_hazards.md R158): one step of the machine is one
Host line, one completion of the Unit, or one reset. -/

namespace Sys2Proof.Machine

/-! ## The Host -/

/-- Set a Host variable. -/
def State.setVar (x : Var) (v : Word) (s : State) : State :=
  { s with host := { s.host with vars := Assoc.set x v s.host.vars } }

/-- The Host goes on with these lines. -/
def State.setRest (lines : List HostLine) (s : State) : State := { s with host := { s.host with rest := lines } }

/-- After a Host read, the variable of the line holds the value read (R71). A refused read (20_memory.md R46) returns no value, and
its variable keeps what it held (log 4). A Host whose state is marked has no turn, so the mark is set here exactly when
this read was refused. -/
def bindRead (x : Var) : Result → Result
  | .next s => if s.refusalMark then .next s else .next (s.setVar x s.readData)
  | .fault r => .fault r
  | .refused r => .refused r

/-- A Host access of one byte at `a`: in the register window it is an access of a width the window does not support (R46;
log 15), elsewhere it is `otherwise`. -/
def byteAccess (we : Bool) (a : Word) (otherwise : State → Result) (s : State) : Result :=
  if s.platform.window.contains a then
    exec (decodeBus 8 (requestWord we ((a - s.platform.unitBase).setWidth 12)) 0#64) s
  else otherwise s

/-- One line of the Host program (R71), the line itself already taken off the lines still to run. -/
def hostLine (line : HostLine) (s : State) : Result :=
  match line with
  | .wr reg e => exec (decode (writeAccess reg.offset (e.eval s.host.vars))) s
  | .rd reg x => bindRead x (exec (decode (readAccess reg.offset)) s)
  | .access width request data => exec (decode (.bus width request data)) s
  | .set x e => .next (s.setVar x (e.eval s.host.vars))
  | .label _ => .next s
  | .ifGoto c l =>
    if c.holds s.host.vars then
      match afterLabel l s.host.program with
      | some lines => .next (s.setRest lines)
      | none => .refused (.unknownLabel l)
    else .next s
  | .store a v =>
    byteAccess true (a.eval s.host.vars)
      (fun s => .next (s.hostWrite (a.eval s.host.vars) ((v.eval s.host.vars).setWidth 8))) s
  | .load a x =>
    byteAccess false (a.eval s.host.vars)
      (fun s => .next (s.setVar x ((readByte s.memory (a.eval s.host.vars)).setWidth 64))) s

/-- The Host's turn: its next line, if it has one; otherwise the turn passes. -/
def hostTurn (s : State) : Result :=
  if s.refusalMark then .refused .refusalMarked
  else
    match s.host.rest with
    | [] => .next s
    | line :: lines => hostLine line (s.setRest lines)

/-! ## The Unit -/

/-- The Unit's turn: the completion of the command in flight (R113, R114); with none in flight the turn passes. -/
def unitTurn (s : State) : Result :=
  if s.refusalMark then .refused .refusalMarked
  else
    match s.flight with
    | none => .next s
    | some f => exec (decodeCommand f.lop) s

/-- The Unit has a step: a command is in flight, and its completion is enabled (R113: "unless the command body is stuck"). -/
def unitEnabled (s : State) : Bool := s.busy && isNext (unitTurn s)

/-! ## Whose turn it is -/

/-- One step: the next turn of `turns`. When `turns` lists none, the Unit completes if it can, else the Host runs a line if
it has one, else the block is idle (log 7). -/
def nextStep (s : State) : Result :=
  match s.turns with
  | .host :: ts => hostTurn { s with turns := ts }
  | .unit :: ts => unitTurn { s with turns := ts }
  | .reset :: ts => .next ({ s with turns := ts }).resetBlock
  | [] => if unitEnabled s || s.host.rest.isEmpty then unitTurn s else hostTurn s

/-! ## Placing a program or one instruction -/

/-- Load a Host program, to be run from its first line (log 21). -/
def State.loadProgram (p : List HostLine) (s : State) : State :=
  { s with host := { s.host with program := p, rest := p } }

/-- Place one encoded thing where the next step takes its work from (log 21): a command word is put in flight as an accept
puts it (R111), and the Unit moves next; a bus request becomes the Host's next line, and the Host moves next. A recorded
fault or a refusal mark, which would keep the Unit or both from moving, is taken away. -/
def State.place (e : Encoding) (s : State) : State :=
  match e with
  | .command w => { s.accept w with turns := .unit :: s.turns, faultRecord := none, refusalMark := false }
  | .bus width request data =>
    { s.setRest (.access width request data :: s.host.rest) with turns := .host :: s.turns, refusalMark := false }

end Sys2Proof.Machine
end

