-- ==== Sys2Proof/Machine/Step.lean ====
section
/-! DEFINITION. One step of the machine, and where the host places one instruction. -/

namespace Sys2Proof.Machine

/-- One step (spec/70_reset_and_hazards.md R158): one Host line, one completion of the Unit, or one reset. -/
def step (s : State) : Host.Outcome State Fault Refusal := nextStep s

/-- The state with the table word stored where step takes its next work from (log 21, log 22); a word that is no encoding
changes nothing. -/
def State.withFetchWord (s : State) (nbits w : Nat) : State :=
  match readRaw nbits w with
  | .ok e => s.place e
  | .error _ => s

end Sys2Proof.Machine
end

