-- ==== Sys2Proof/Safety.lean ====
section
/-! DEFINITION. What counts as a safe run, and the invariant of the machine, in the terms the statements use. -/

namespace Sys2Proof.Machine

/-- No fault is recorded and no refusal mark is set (spec/60_exceptions.md R143). -/
def State.clean (s : State) : Bool := s.faultRecord.isNone && !s.refusalMark

/-- A finished run (42_interface.md R129): the Host program has run its last line, no command is in flight, no fault is
recorded and no refusal mark is set. -/
def State.finished (s : State) : Bool := s.host.rest.isEmpty && !s.busy && s.clean

/-- The latches of a tainted command name a parse of 1 to 20 bytes, both operands written (20_memory.md R55). -/
def Flight.taintOk (f : Flight) : Bool :=
  !f.taint ||
    (match (decodeCommand f.lop).sliceForm with
     | none => false
     | some form =>
       !f.la0.unwritten && !f.la1.unwritten && (lencheck (sliceOf form f.la0.value f.la1.value).length).isNone)

/-- The invariant of the machine: what the spec says of every state between two steps. -/
structure State.Inv (s : State) : Prop where
  /-- Host memory is in canonical form. -/
  memory : Memory.wf s.memory
  /-- The Host's variables are in canonical form (keys rising). -/
  vars : s.host.vars.Pairwise (fun a b => a.1 < b.1)
  /-- ERR holds a code of R131: 5..15 are "reserved and never produced" (R25). -/
  err : s.err.toNat ≤ 4
  /-- RV = 1 implies BUSY = 0 and ERR = 0 (R23), and RESULT has been written. -/
  rv : s.rv = true → s.busy = false ∧ s.err = noError ∧ s.result.unwritten = false
  /-- ERR is 0 while a command is in flight (R21). -/
  busyErr : s.busy = true → s.err = noError
  /-- TAINT belongs to a parse command whose length check passes (R35, R55). -/
  taint : ∀ f, s.flight = some f → f.taintOk = true
  /-- A command that faulted stays in flight: "BUSY stays 1" (R113). -/
  halted : s.faultRecord = some .unwrittenOperand → s.busy = true

/-! ## The terms of the statements -/

/-- The value of a decimal numeral as an unbounded integer, first byte most significant (40_parse.md R82). -/
def numeral (bs : List Byte) : Nat := bs.foldl (fun n c => 10 * n + (c.toNat - 0x30)) 0

/-- A digit byte: 0x30..0x39 (00_scope.md R11). -/
abbrev digitByte (c : Byte) : Prop := 0x30 ≤ c.toNat ∧ c.toNat ≤ 0x39

/-- The slice a parse command takes from its latches (30_encoding.md R66, R67), and none for any other instruction. -/
def commandSlice (i : Instr) (f : Flight) : Option Slice :=
  match i with
  | .parsecL | .parseuL => some { start := f.la0.value, length := f.la1.value }
  | .parsecE | .parseuE => some { start := f.la0.value, length := f.la1.value - f.la0.value }
  | .clz64 | .illegal _ => none
  | .wrArg0 _ | .rdArg0 | .wrArg1 _ | .rdArg1 | .wrCmd _ | .rdCmd | .wrResult _ | .rdResult => none
  | .wrStatus _ | .rdStatus | .wrId _ | .rdId | .wrRsvd _ _ | .rdRsvd _ | .refusedAccess _ _ => none

/-- The command `f` is in flight and no fault keeps the Unit from completing it (R113). -/
abbrev InFlight (f : Flight) (s : State) : Prop := s.flight = some f ∧ s.faultRecord = none

/-- A parse command in flight with both operands written, and its slice (R88 to R91). -/
abbrev ParseInFlight (i : Instr) (f : Flight) (sl : Slice) (s : State) : Prop :=
  InFlight f s ∧ f.la0.unwritten = false ∧ f.la1.unwritten = false ∧ commandSlice i f = some sl

/-- A length the length check passes: 1 to 20 (40_parse.md R77). -/
abbrev Slice.lengthOk (sl : Slice) : Prop := 1 ≤ sl.length.toNat ∧ sl.length.toNat ≤ 20

/-- Every byte of the slice is answered by the platform (20_memory.md R50). -/
abbrev Slice.admitted (sl : Slice) (s : State) : Prop :=
  ∀ p, p < sl.length.toNat → s.platform.admits (sl.start + BitVec.ofNat 64 p) = true

/-- The byte at position p of the slice (00_scope.md R12). -/
def Slice.byte (sl : Slice) (s : State) (p : Nat) : Byte := readByte s.memory (sl.start + BitVec.ofNat 64 p)

/-- The bytes of the slice, b[0] first. -/
def Slice.bytes (sl : Slice) (s : State) : List Byte := (List.range sl.length.toNat).map (sl.byte s)

/-- The instruction is one a command word selects, so its meaning is the Unit's completion (R114). -/
def isCommand (i : Instr) : Bool :=
  match i with
  | .clz64 | .parseuL | .parseuE | .parsecL | .parsecE | .illegal _ => true
  | .wrArg0 _ | .rdArg0 | .wrArg1 _ | .rdArg1 | .wrCmd _ | .rdCmd | .wrResult _ | .rdResult => false
  | .wrStatus _ | .rdStatus | .wrId _ | .rdId | .wrRsvd _ _ | .rdRsvd _ | .refusedAccess _ _ => false

end Sys2Proof.Machine
end

