-- ==== Sys2Proof/Certificates/Slice0/Obligations.lean ====
section
/-! DEFINITION. The statements about the machine, for the provers. Each docstring names the rule of spec/ it formalises, or the
log entry of the model's own choice it rests on. -/

open Sys2Proof Sys2Proof.Machine

/-! ## Encoding -/

/-- Decoding the encoding of a well-formed instruction gives it back, every field at every value (R61, R69). -/
def Obligations.DecodeOfEncodeIsIdentity : Prop :=
  ∀ i : Instr, i.wellFormed = true → decode (encode i) = i

/-- Every command word has one meaning: it decodes to a well-formed instruction whose encoding is that word (R61 to R63). -/
def Obligations.CommandWordHasOneMeaning : Prop :=
  ∀ w : Word, (decodeCommand w).wellFormed = true ∧ encode (decodeCommand w) = .command w

/-- Every bus request has one meaning: it decodes to a well-formed instruction whose encoding has that width and request,
and for a supported write that data (R68, R69). -/
def Obligations.BusRequestHasOneMeaning : Prop :=
  ∀ (width : Nat) (request : Request) (data : Word),
    (decodeBus width request data).wellFormed = true ∧
    (∃ data', encode (decodeBus width request data) = .bus width request data') ∧
    (width = 64 → request.toNat % 8 = 0 → request.getLsbD 12 = true →
      encode (decodeBus width request data) = .bus width request data)

/-- R61: exactly five values select a command. -/
def Obligations.LegalCommandWordsSelectCommands : Prop :=
  ∀ w : Word,
    (decodeCommand w = .clz64 ↔ w = 0x4#64) ∧ (decodeCommand w = .parseuL ↔ w = 0x8#64) ∧
    (decodeCommand w = .parseuE ↔ w = 0x9#64) ∧ (decodeCommand w = .parsecL ↔ w = 0xA#64) ∧
    (decodeCommand w = .parsecE ↔ w = 0xB#64) ∧
    (w ≠ 0x4#64 → w ≠ 0x8#64 → w ≠ 0x9#64 → w ≠ 0xA#64 → w ≠ 0xB#64 → decodeCommand w = .illegal w)

/-- R62: which words are illegal, by the fields of R60; that one is accepted like any other while BUSY = 0; and that it
completes with ILLEGAL_COMMAND whatever the latches and Host memory hold, leaving RESULT unchanged. -/
def Obligations.IllegalCommandWordsAcceptedAndReported : Prop :=
  ∀ w : Word,
    (decodeCommand w = .illegal w ↔
      w.extractLsb' 4 60 ≠ 0#60 ∨ w.extractLsb' 2 2 = 0b00#2 ∨ w.extractLsb' 2 2 = 0b11#2 ∨
      (w.extractLsb' 2 2 = 0b01#2 ∧ (w.getLsbD 1 = true ∨ w.getLsbD 0 = true))) ∧
    (∀ s : State, s.busy = false →
      Machine.exec (.wrCmd w) s = .next
        { s with flight := some ⟨w, s.arg0, s.arg1, false⟩, rv := false, err := 0#4, drop := false }) ∧
    (∀ (s : State) (f : Flight), InFlight f s →
      Machine.exec (.illegal w) s = .next { s with rv := false, err := 4#4, flight := none })

/-- Words written out from R61, R62 and R69 decode to what they stand for. -/
def Obligations.SpecWordsDecode : Prop :=
  decode (.command 0x0000_0000_0000_0004#64) = .clz64 ∧
  decode (.command 0x0000_0000_0000_0009#64) = .parseuE ∧
  decode (.command 0x0000_0000_0000_000A#64) = .parsecL ∧
  decode (.command 0x8000_0000_0000_0008#64) = .illegal 0x8000_0000_0000_0008#64 ∧
  decode (.bus 64 0x1008#13 5#64) = .wrArg1 5#64 ∧
  decode (.bus 64 0x0020#13 0#64) = .rdStatus ∧
  decode (.bus 64 0x1FF8#13 7#64) = .wrRsvd 0xFF8#12 7#64 ∧
  decode (.bus 64 0x0004#13 0#64) = .refusedAccess 64 0x0004#13

/-- R69: the access each bus request stands for. -/
def Obligations.BusRequestsDecodeByTable : Prop :=
  (∀ data : Word,
    decodeBus 64 0x1000#13 data = .wrArg0 data ∧ decodeBus 64 0x0000#13 data = .rdArg0 ∧
    decodeBus 64 0x1008#13 data = .wrArg1 data ∧ decodeBus 64 0x0008#13 data = .rdArg1 ∧
    decodeBus 64 0x1010#13 data = .wrCmd data ∧ decodeBus 64 0x0010#13 data = .rdCmd ∧
    decodeBus 64 0x1018#13 data = .wrResult data ∧ decodeBus 64 0x0018#13 data = .rdResult ∧
    decodeBus 64 0x1020#13 data = .wrStatus data ∧ decodeBus 64 0x0020#13 data = .rdStatus ∧
    decodeBus 64 0x1028#13 data = .wrId data ∧ decodeBus 64 0x0028#13 data = .rdId) ∧
  (∀ (off : Offset) (data : Word), 0x030 ≤ off.toNat → off.toNat % 8 = 0 →
    decodeBus 64 (1#1 ++ off) data = .wrRsvd off data ∧ decodeBus 64 (0#1 ++ off) data = .rdRsvd off) ∧
  (∀ (request : Request) (data : Word), request.toNat % 8 ≠ 0 →
    decodeBus 64 request data = .refusedAccess 64 request)

/-! ## A step -/

/-- The Unit's turn runs the completion of the command in flight (R113, R114). The turn itself is the model's (log 7). -/
def Obligations.UnitTurnRunsTheCommandInFlight : Prop :=
  ∀ (s : State) (f : Flight) (ts : List Turn),
    s.flight = some f → s.refusalMark = false → s.turns = .unit :: ts →
      (decodeCommand f.lop).wellFormed = true ∧
      Machine.step s = Machine.exec (decodeCommand f.lop) { s with turns := ts }

/-- The Host's turn runs the access its next line is encoded as (R71), and a read binds the line's variable; a read at a
misaligned offset is refused (R46), and sets the refusal mark alone. The turn and the field readData are the model's (log 7,
log 9), and so is that a refused line is taken off and binds nothing (log 4). -/
def Obligations.HostTurnRunsTheAccessOfItsLine : Prop :=
  ∀ (s : State) (ts : List Turn) (line : HostLine) (lines : List HostLine),
    s.refusalMark = false → s.turns = .host :: ts → s.host.rest = line :: lines →
      let s' : State := { s with turns := ts, host := { s.host with rest := lines } }
      (∀ reg e, line = .wr reg e →
        Machine.step s = Machine.exec (decodeBus 64 (1#1 ++ reg.offset) (e.eval s.host.vars)) s') ∧
      (∀ width request data, line = .access width request data →
        Machine.step s = Machine.exec (decodeBus width request data) s') ∧
      (∀ reg x, line = .rd reg x → reg.offset.toNat % 8 = 0 →
        ∀ t, Machine.exec (decodeBus 64 (0#1 ++ reg.offset) 0#64) s' = .next t →
          Machine.step s = .next { t with host := { t.host with vars := Assoc.set x t.readData t.host.vars } }) ∧
      (∀ reg x, line = .rd reg x → reg.offset.toNat % 8 ≠ 0 → Machine.step s = .next { s' with refusalMark := true })

/-- A Host line with no encoding in the block (R71: SET, labels, IF ... GOTO) changes the Host alone. -/
def Obligations.HostComputationTouchesNoBlockState : Prop :=
  ∀ (s t : State) (ts : List Turn) (line : HostLine) (lines : List HostLine),
    s.turns = .host :: ts → s.host.rest = line :: lines →
    ((∃ x e, line = .set x e) ∨ (∃ l, line = .label l) ∨ ∃ c l, line = .ifGoto c l) →
    Machine.step s = .next t → t = { s with turns := ts, host := t.host } ∧ t.host.program = s.host.program

/-! ## Reset -/

/-- R146: a reset, at any moment, gives every piece of state its reset value; ID and the ROM keep their constants. -/
def Obligations.ResetGivesEveryResetValue : Prop :=
  ∀ (s : State) (ts : List Turn), s.turns = .reset :: ts →
    ∃ t, Machine.step s = .next t ∧
      t.statusWord = 0#64 ∧ t.busy = false ∧ t.rv = false ∧ t.drop = false ∧ t.err = 0#4 ∧
      t.arg0.unwritten = true ∧ t.arg1.unwritten = true ∧ t.result.unwritten = true ∧
      t.flight = none ∧ t.taint = false ∧ t.faultRecord = none ∧ t.refusalMark = false ∧
      (∃ u, Machine.exec .rdId t = .next u ∧ u.readData = 0x4342_434F_5245_0001#64) ∧
      ∀ j, j < 20 → (rom j).toNat = 10 ^ (19 - j)

/-- R147: a reset while a command is in flight abandons it, and changes no byte of Host memory. That the Unit's turn, with no
completion to take, then passes and answers the same state is the model's choice (log 7, log 5). -/
def Obligations.ResetAbandonsTheCommandInFlight : Prop :=
  ∀ (s : State) (f : Flight) (ts : List Turn), s.turns = .reset :: ts → s.flight = some f →
    ∃ t, Machine.step s = .next t ∧ t.flight = none ∧ t.result.unwritten = true ∧
      (∀ a, readByte t.memory a = readByte s.memory a) ∧
      ∀ us, unitTurn { t with turns := us } = .next { t with turns := us }

/-- R129: a run with a command in flight, a recorded fault or a refusal mark is not finished, and a finished run stays as it is
until the outside gives a turn (the turns are the model's, log 7). -/
def Obligations.FinishedRunIsIdle : Prop :=
  ∀ s : State,
    (s.busy = true ∨ s.faultRecord ≠ none ∨ s.refusalMark = true ∨ s.host.rest ≠ [] → s.finished = false) ∧
    (s.finished = true → s.turns = [] → Machine.step s = .next s)

/-- The state after reset (R146, R148): idle, STATUS 0, nothing written, nothing in flight, nothing recorded. That an idle block with
no turn listed and no Host line steps to itself is the model's choice (log 7, log 21). -/
def Obligations.ResetStateIsIdle : Prop :=
  State.reset.statusWord = 0#64 ∧ State.reset.busy = false ∧ State.reset.arg0.unwritten = true ∧
  State.reset.arg1.unwritten = true ∧ State.reset.result.unwritten = true ∧ State.reset.flight = none ∧
  State.reset.faultRecord = none ∧ State.reset.refusalMark = false ∧ Machine.step State.reset = .next State.reset

/-! ## The command lifecycle -/

/-- R111: a CMD write while BUSY = 0 is accepted. -/
def Obligations.CommandWriteWhileIdleIsAccepted : Prop :=
  ∀ (w : Word) (s : State), s.busy = false →
    ∃ t, Machine.exec (.wrCmd w) s = .next t ∧
      t = { s with flight := some { lop := w, la0 := s.arg0, la1 := s.arg1, taint := false },
                   rv := false, err := 0#4, drop := false } ∧
      t.busy = true ∧ t.taint = false

/-- R112: a CMD write while BUSY = 1 is discarded, and only DROP changes. -/
def Obligations.CommandWriteWhileBusyIsDropped : Prop :=
  ∀ (w : Word) (s : State), s.busy = true → Machine.exec (.wrCmd w) s = .next { s with drop := true }

/-- R22: BUSY changes at an accept and at a completion only. -/
def Obligations.OnlyAcceptAndCompletionChangeBusy : Prop :=
  ∀ (i : Instr) (s t : State), Machine.exec i s = .next t →
    (s.busy = false → t.busy = true → ∃ w, i = .wrCmd w) ∧
    (s.busy = true → t.busy = false → isCommand i = true ∧ t.flight = none)

/-- R145: ERR, RV and DROP of the last command stay until an accepted CMD write, whatever the Host accesses. -/
def Obligations.OnlyAcceptClearsTheOutcome : Prop :=
  ∀ (i : Instr) (s t : State), Machine.exec i s = .next t →
    (s.drop = true → t.drop = false → ∃ w, i = .wrCmd w ∧ s.busy = false) ∧
    (s.busy = false → t.err ≠ s.err ∨ t.rv ≠ s.rv → ∃ w, i = .wrCmd w)

/-- R154: ARG0 and ARG1 are latched at accept, so writing them while a command is in flight changes neither its outcome nor
what it leaves. -/
def Obligations.OperandWritesDoNotReachTheCommandInFlight : Prop :=
  ∀ (i : Instr) (s t : State) (v : Word), isCommand i = true → Machine.exec i s = .next t →
    (∃ u, Machine.exec (.wrArg0 v) s = .next u ∧ Machine.exec i u = .next { t with arg0 := ⟨v, false⟩ }) ∧
    (∃ u, Machine.exec (.wrArg1 v) s = .next u ∧ Machine.exec i u = .next { t with arg1 := ⟨v, false⟩ })

/-- A command that can complete does so at the Unit's next turn (R113, R158; the turn is the model's, log 7). -/
def Obligations.ReadyCommandCompletesAtTheUnitTurn : Prop :=
  ∀ (s : State) (f : Flight) (ts : List Turn), InFlight f s → s.refusalMark = false → s.turns = .unit :: ts →
    f.la0.unwritten = false → f.la1.unwritten = false →
    (∀ sl, commandSlice (decodeCommand f.lop) f = some sl → sl.lengthOk → sl.admitted s) →
    ∃ t, Machine.step s = .next t ∧ t.busy = false ∧ t.faultRecord = none ∧
      (t.rv = true ↔ t.err = 0#4)

/-! ## The leading-zero counter -/

/-- R108: CLZ64's value is the number of leading zero bits of x, for every x. An unwritten ARG1 does not matter (R109). -/
def Obligations.ClzResultIsLeadingZeroCount : Prop :=
  ∀ (s : State) (f : Flight), InFlight f s → f.la0.unwritten = false →
    ∃ n, Machine.exec .clz64 s = .next
        { s with result := ⟨BitVec.ofNat 64 n, false⟩, rv := true, err := 0#4, flight := none } ∧
      n ≤ 64 ∧ (∀ k, k < n → f.la0.value.getMsbD k = false) ∧ (n < 64 → f.la0.value.getMsbD n = true)

/-- R106: for x > 0 the count is 63 - floor(log2 x), by the highest set bit of the half that is not zero. -/
def Obligations.ClzOfNonzeroIsByHighestBit : Prop :=
  ∀ (s t : State) (f : Flight), InFlight f s → f.la0.unwritten = false → f.la0.value ≠ 0#64 →
    Machine.exec .clz64 s = .next t →
      t.result.value.toNat = 63 - Nat.log2 f.la0.value.toNat ∧
      (f.la0.value.extractLsb' 32 32 ≠ 0#32 →
        Nat.log2 f.la0.value.toNat = 32 + msb (f.la0.value.extractLsb' 32 32) ∧
        t.result.value.toNat = 31 - msb (f.la0.value.extractLsb' 32 32)) ∧
      (f.la0.value.extractLsb' 32 32 = 0#32 →
        Nat.log2 f.la0.value.toNat = msb (f.la0.value.extractLsb' 0 32) ∧
        t.result.value.toNat = 32 + 31 - msb (f.la0.value.extractLsb' 0 32))

/-- R105: the result of CLZ64 is in 0..64, and RESULT[63:7] is 0. -/
def Obligations.ClzResultInRange : Prop :=
  ∀ (s : State) (f : Flight), InFlight f s → f.la0.unwritten = false →
    ∃ t, Machine.exec .clz64 s = .next t ∧ t.result.value.toNat ≤ 64 ∧ t.result.value.extractLsb' 7 57 = 0#57

/-- R107: 64 for x = 0, and 0 for every x with bit 63 set. -/
def Obligations.ClzOfZeroAndOfTopBit : Prop :=
  ∀ (s : State) (f : Flight), InFlight f s → f.la0.unwritten = false →
    (f.la0.value = 0#64 → ∃ t, Machine.exec .clz64 s = .next t ∧ t.result = ⟨64#64, false⟩) ∧
    (f.la0.value.getLsbD 63 = true → ∃ t, Machine.exec .clz64 s = .next t ∧ t.result = ⟨0#64, false⟩)

/-- R101: the 32-bit primitive, for every input but 0: 31 minus the largest index of a set bit. -/
def Obligations.ClzPrimitiveIsThirtyOneMinusMsb : Prop :=
  ∀ v : BitVec 32, v ≠ 0#32 →
    (clz32 v).toNat = 31 - msb v ∧ msb v ≤ 31 ∧ v.getLsbD (msb v) = true ∧ ∀ k, msb v < k → v.getLsbD k = false

/-- R109: CLZ64 reads no memory and not ARG1, and writes only RESULT and STATUS. -/
def Obligations.ClzReadsOnlyItsOperand : Prop :=
  ∀ (s t : State) (f : Flight) (la1 : MarkedReg) (m : Memory), InFlight f s → f.la0.unwritten = false →
    Machine.exec .clz64 s = .next t →
      Machine.exec .clz64 { s with flight := some { f with la1 := la1 }, memory := m } = .next { t with memory := m } ∧
      t = { s with result := t.result, rv := t.rv, err := t.err, flight := t.flight }

/-! ## The digit parser -/

/-- R78, R79: the digit test holds exactly for 0x30..0x39, and the digit value is the byte less 0x30, in 0..9. -/
def Obligations.DigitTestAndValue : Prop :=
  ∀ c : Byte, (isDigit c = true ↔ 0x30 ≤ c.toNat ∧ c.toNat ≤ 0x39) ∧
    (isDigit c = true → (digitValue c).toNat = c.toNat - 0x30 ∧ (digitValue c).toNat ≤ 9)

/-- R30, R80: the ROM holds 10^(19-j), and position p of a slice of length L reads 10^(L-1-p), at an index in 0..19. -/
def Obligations.RomHoldsThePowersRead : Prop :=
  (∀ j, j < 20 → (rom j).toNat = 10 ^ (19 - j)) ∧
  ∀ L p, 1 ≤ L → L ≤ 20 → p < L → romIndex L p = 20 - L + p ∧ romIndex L p < 20 ∧
    (rom (romIndex L p)).toNat = 10 ^ (L - 1 - p)

/-- R82, with R88 to R91 and R115: a slice of digit bytes parses to the value of its numeral modulo 2^64, in all four
commands; nothing but RESULT, STATUS and the latches changes. -/
def Obligations.ParseOfDigitsIsTheNumeral : Prop :=
  ∀ (i : Instr) (s : State) (f : Flight) (sl : Slice), ParseInFlight i f sl s → sl.lengthOk → sl.admitted s →
    f.taint = false → (∀ p, p < sl.length.toNat → digitByte (sl.byte s p)) →
      Machine.exec i s = .next
        { s with result := ⟨BitVec.ofNat 64 (numeral (sl.bytes s)), false⟩, rv := true, err := 0#4, flight := none }

/-- R82: the accumulation of a slice of digit bytes is N mod 2^64, and N itself for N up to 2^64 - 1, so for every numeral of at
most 19 digits. -/
def Obligations.AccumulationIsTheNumeralModulo : Prop :=
  ∀ bs : List Byte, 1 ≤ bs.length → bs.length ≤ 20 → (∀ c ∈ bs, digitByte c) →
    (accum bs).toNat = numeral bs % 2 ^ 64 ∧
    (numeral bs ≤ 2 ^ 64 - 1 → (accum bs).toNat = numeral bs) ∧
    (bs.length ≤ 19 → numeral bs ≤ 2 ^ 64 - 1)

/-- R84: processing the digits in groups of four and then one at a time gives ACCUM(b, L). -/
def Obligations.GroupedAccumulationAgrees : Prop :=
  ∀ bs : List Byte, 1 ≤ bs.length → bs.length ≤ 20 → accumGrouped (20 - bs.length) 0#64 bs = accum bs

/-- R94: leading zeros are digits like any other: they leave the value, and a slice of zeros alone gives 0. -/
def Obligations.LeadingZerosLeaveTheValue : Prop :=
  (∀ n, 1 ≤ n → n ≤ 20 → accum (List.replicate n 0x30#8) = 0#64) ∧
  ∀ (n : Nat) (bs : List Byte), 1 ≤ bs.length → n + bs.length ≤ 20 → (∀ c ∈ bs, digitByte c) →
    accum (List.replicate n 0x30#8 ++ bs) = accum bs

/-- R136: INVALID_DIGIT from the checked commands when a byte of the slice fails the digit test, with RESULT unchanged (R116);
the unchecked commands never complete with it. -/
def Obligations.InvalidDigitFromCheckedCommandsOnly : Prop :=
  (∀ (i : Instr) (s : State) (f : Flight) (sl : Slice), i = .parsecL ∨ i = .parsecE → ParseInFlight i f sl s →
    sl.lengthOk → sl.admitted s → f.taint = false → (∃ p, p < sl.length.toNat ∧ ¬ digitByte (sl.byte s p)) →
      Machine.exec i s = .next { s with rv := false, err := 1#4, flight := none }) ∧
  (∀ (i : Instr) (s t : State), i = .parseuL ∨ i = .parseuE → Machine.exec i s = .next t → t.flight = none → t.err ≠ 1#4)

/-- R87: an unchecked parse of a slice with a byte that is no digit completes with the free value UNC_NONDIGIT of its bytes. -/
def Obligations.UncheckedNonDigitsGiveTheFreeValue : Prop :=
  ∀ (i : Instr) (s : State) (f : Flight) (sl : Slice), i = .parseuL ∨ i = .parseuE → ParseInFlight i f sl s →
    sl.lengthOk → sl.admitted s → f.taint = false → (∃ p, p < sl.length.toNat ∧ ¬ digitByte (sl.byte s p)) →
      Machine.exec i s = .next
        { s with result := ⟨Config.uncNondigit (sl.bytes s), false⟩, rv := true, err := 0#4, flight := none }

/-- R134, R135: every parse command reports length 0 as EMPTY_INPUT (FOLD_EMPTY = false) and length 21 to 2^64 - 1 as
LENGTH_OUT_OF_RANGE, whatever the slice's bytes, their admission and TAINT; under FOLD_EMPTY = true length 0 is reported as
LENGTH_OUT_OF_RANGE. -/
def Obligations.LengthErrorsOfParseCommands : Prop :=
  (∀ (i : Instr) (s : State) (f : Flight) (sl : Slice), ParseInFlight i f sl s →
    (sl.length.toNat = 0 → Machine.exec i s = .next { s with rv := false, err := 3#4, flight := none }) ∧
    (20 < sl.length.toNat → Machine.exec i s = .next { s with rv := false, err := 2#4, flight := none })) ∧
  lencheckWith true 0#64 = some .lengthOutOfRange

/-- R50: with the length check passed and a slice byte `admits` rejects, the Unit has no step: exec stops by name. -/
def Obligations.UnadmittedSliceIsStuck : Prop :=
  ∀ (i : Instr) (s : State) (f : Flight) (sl : Slice), ParseInFlight i f sl s → sl.lengthOk →
    (∃ p, p < sl.length.toNat ∧ s.platform.admits (sl.start + BitVec.ofNat 64 p) = false) →
      Machine.exec i s = .fault .stuckSlice

/-- R38, R113, R143: a command whose body reads an unwritten latch records UnwrittenOperand and nothing else, before the length
check (R137); BUSY stays 1, and the Unit has no step from then on. That the recorded fault is a next state is the model's (log 2). -/
def Obligations.UnwrittenOperandIsRecorded : Prop :=
  ∀ (i : Instr) (s : State) (f : Flight), InFlight f s →
    (i = .clz64 ∧ f.la0.unwritten = true ∨
      (i = .parsecL ∨ i = .parsecE ∨ i = .parseuL ∨ i = .parseuE) ∧ (f.la0.unwritten = true ∨ f.la1.unwritten = true)) →
      ∃ t, Machine.exec i s = .next t ∧ t = { s with faultRecord := some .unwrittenOperand } ∧ t.busy = true ∧
        ∀ j, isCommand j = true → Machine.exec j t = .fault .unitHalted

/-- R113 under TAINT: the outcome of a tainted parse whose length check passes and whose slice is admitted is a value nothing
fixes, or for the checked commands INVALID_DIGIT. The counter draws is the model's (log 10). -/
def Obligations.TaintedParseCompletesWithADraw : Prop :=
  ∀ (i : Instr) (s : State) (f : Flight) (sl : Slice), ParseInFlight i f sl s → sl.lengthOk → sl.admitted s →
    f.taint = true →
      (∃ v, Machine.exec i s = .next
        { s with result := ⟨v, false⟩, rv := true, err := 0#4, flight := none, draws := s.draws + 1 }) ∨
      ((i = .parsecL ∨ i = .parsecE) ∧
        Machine.exec i s = .next { s with rv := false, err := 1#4, flight := none, draws := s.draws + 1 })

/-- R92: the two calling conventions agree: an .E command with (B, E) has the outcome of the .L command with (B, E - B). With an
unwritten operand both record the same fault (R113, R143); that the recorded fault is a next state is the model's (log 2). -/
def Obligations.CallingConventionsAgree : Prop :=
  ∀ (s : State) (f : Flight), InFlight f s →
    let s' : State := { s with flight := some { f with la1 := ⟨f.la1.value - f.la0.value, f.la1.unwritten⟩ } }
    (f.la0.unwritten = false → f.la1.unwritten = false →
      Machine.exec .parsecE s = Machine.exec .parsecL s' ∧ Machine.exec .parseuE s = Machine.exec .parseuL s') ∧
    (f.la0.unwritten = true ∨ f.la1.unwritten = true →
      Machine.exec .parsecE s = .next { s with faultRecord := some .unwrittenOperand } ∧
      Machine.exec .parsecL s' = .next { s' with faultRecord := some .unwrittenOperand } ∧
      Machine.exec .parseuE s = .next { s with faultRecord := some .unwrittenOperand } ∧
      Machine.exec .parseuL s' = .next { s' with faultRecord := some .unwrittenOperand })

/-- R93: checked and unchecked commands agree on a slice of digit bytes, and on a length error. -/
def Obligations.CheckedAgreesWithUncheckedOnDigits : Prop :=
  ∀ (s : State) (f : Flight), InFlight f s → f.taint = false →
    (∀ sl, commandSlice .parsecL f = some sl →
      ¬ sl.lengthOk ∨ (∀ p, p < sl.length.toNat → digitByte (sl.byte s p)) →
        Machine.exec .parseuL s = Machine.exec .parsecL s) ∧
    (∀ sl, commandSlice .parsecE f = some sl →
      ¬ sl.lengthOk ∨ (∀ p, p < sl.length.toNat → digitByte (sl.byte s p)) →
        Machine.exec .parseuE s = Machine.exec .parsecE s)

/-- R49: no command reads a byte outside its slice: Host memories that agree on the slice give the same outcome. -/
def Obligations.ParseReadsOnlyItsSlice : Prop :=
  ∀ (i : Instr) (s t : State) (f : Flight) (sl : Slice) (m : Memory), ParseInFlight i f sl s →
    (∀ p, p < sl.length.toNat → readByte m (sl.start + BitVec.ofNat 64 p) = sl.byte s p) →
    (Machine.exec i s = .next t → Machine.exec i { s with memory := m } = .next { t with memory := m }) ∧
    (Machine.exec i s = .fault .stuckSlice → Machine.exec i { s with memory := m } = .fault .stuckSlice)

/-! ## Register accesses -/

/-- R117, R118: WR ARG0 and WR ARG1 write the register, BUSY or not, and leave the command in flight. -/
def Obligations.OperandRegistersHoldWhatIsWritten : Prop :=
  ∀ (v : Word) (s : State),
    Machine.exec (.wrArg0 v) s = .next { s with arg0 := ⟨v, false⟩ } ∧
    Machine.exec (.wrArg1 v) s = .next { s with arg1 := ⟨v, false⟩ } ∧
    (∃ t, Machine.exec .rdArg0 { s with arg0 := ⟨v, false⟩ } = .next t ∧ t.readData = v) ∧
    (∃ t, Machine.exec .rdArg1 { s with arg1 := ⟨v, false⟩ } = .next t ∧ t.readData = v)

/-- R119, R121: RD ARG0, RD ARG1 and RD RESULT return the register's value and change nothing. -/
def Obligations.ReadOfWrittenRegisterReturnsItsValue : Prop :=
  ∀ s : State,
    (s.arg0.unwritten = false → Machine.exec .rdArg0 s = .next { s with readData := s.arg0.value }) ∧
    (s.arg1.unwritten = false → Machine.exec .rdArg1 s = .next { s with readData := s.arg1.value }) ∧
    (s.result.unwritten = false → Machine.exec .rdResult s = .next { s with readData := s.result.value })

/-- R119, R121: a read of an unwritten register is the fault UnwrittenRegister: it is recorded (the first recorded fault stays)
and no register, flag or byte changes. That it is a next state, and the value read, are the model's (log 2, log 3). -/
def Obligations.ReadOfUnwrittenRegisterIsRecorded : Prop :=
  ∀ (i : Instr) (s : State),
    (i = .rdArg0 ∧ s.arg0.unwritten = true ∨ i = .rdArg1 ∧ s.arg1.unwritten = true ∨
      i = .rdResult ∧ s.result.unwritten = true) →
    ∃ t, Machine.exec i s = .next t ∧
      t = { s with faultRecord := t.faultRecord, readData := t.readData, draws := t.draws } ∧
      (s.faultRecord = none → t.faultRecord = some .unwrittenRegister) ∧
      (∀ r, s.faultRecord = some r → t.faultRecord = some r)

/-- R123: RD STATUS returns {56'b0, ERR[3:0], 1'b0, DROP, RV, BUSY} with no side effect. -/
def Obligations.StatusReadHasItsLayout : Prop :=
  ∀ s : State, ∃ v : Word, Machine.exec .rdStatus s = .next { s with readData := v } ∧
    v.getLsbD 0 = s.busy ∧ v.getLsbD 1 = s.rv ∧ v.getLsbD 2 = s.drop ∧ v.getLsbD 3 = false ∧
    v.extractLsb' 4 4 = s.err ∧ v.extractLsb' 8 56 = 0#56

/-- R120, R122, R125, R126: RD CMD returns 0, RD ID the identity constant, RD at a reserved offset 0, with no side effect; WR
RESULT, WR ID, WR at a reserved offset and WR STATUS (R124) have no effect at all. -/
def Obligations.ConstantReadsAndIgnoredWrites : Prop :=
  ∀ (s : State) (v : Word) (off : Offset),
    Machine.exec .rdCmd s = .next { s with readData := 0#64 } ∧
    Machine.exec .rdId s = .next { s with readData := 0x4342_434F_5245_0001#64 } ∧
    Machine.exec (.rdRsvd off) s = .next { s with readData := 0#64 } ∧
    Machine.exec (.wrResult v) s = .next s ∧ Machine.exec (.wrStatus v) s = .next s ∧
    Machine.exec (.wrId v) s = .next s ∧ Machine.exec (.wrRsvd off v) s = .next s

/-- R46: an access of another width, or at an offset that is not a multiple of 8, sets the refusal mark and is no step of the
block: nothing else changes. That it is a next state with the mark set is the model's choice (log 4). -/
def Obligations.UnsupportedAccessSetsTheRefusalMark : Prop :=
  ∀ (width : Nat) (request : Request) (data : Word) (s : State), width ≠ 64 ∨ request.toNat % 8 ≠ 0 →
    decodeBus width request data = .refusedAccess width request ∧
    Machine.exec (.refusedAccess width request) s = .next { s with refusalMark := true }

/-- In a state whose refusal mark is set the Host and the Unit have no step (R143: "set for the whole state"; log 4). -/
def Obligations.MarkedStateHasNoStep : Prop :=
  ∀ s : State, s.refusalMark = true → (∀ ts, s.turns ≠ .reset :: ts) → Machine.step s = .refused .refusalMarked

/-! ## Host memory -/

/-- R130, R55: a Host write of Host memory changes one byte; the block changes in TAINT alone, and the command in flight is what
Flight.hostWrote makes of it at the address written (which addresses taint it is the next statement). The store line and the
turn are the model's (log 8, log 7). -/
def Obligations.HostStoreChangesOneByte : Prop :=
  ∀ (s : State) (ts : List Turn) (a v : Expr) (lines : List HostLine), s.refusalMark = false → s.turns = .host :: ts →
    s.host.rest = .store a v :: lines → s.platform.window.contains (a.eval s.host.vars) = false →
    ∃ t, Machine.step s = .next t ∧
      readByte t.memory (a.eval s.host.vars) = (v.eval s.host.vars).setWidth 8 ∧
      (∀ a', a' ≠ a.eval s.host.vars → readByte t.memory a' = readByte s.memory a') ∧
      t = { s with memory := t.memory, turns := ts, host := { s.host with rest := lines }, flight := t.flight } ∧
      t.flight = s.flight.map (fun f => f.hostWrote (a.eval s.host.vars)) ∧
      t.busy = s.busy ∧ ∀ f, s.flight = some f → ∃ taint, t.flight = some { f with taint := taint }

/-- R55: a Host write sets TAINT exactly when its address is (LA0 + p) mod 2^64 for a p < L of the parse command in flight, of
length 1 to 20; a write to any other byte has no effect on the command. -/
def Obligations.HostWriteTaintsExactlyTheSlice : Prop :=
  ∀ (s : State) (f : Flight) (sl : Slice) (a : Word) (b : Byte), s.flight = some f →
    f.la0.unwritten = false → f.la1.unwritten = false → commandSlice (decodeCommand f.lop) f = some sl → sl.lengthOk →
    ((∃ p, p < sl.length.toNat ∧ a = sl.start + BitVec.ofNat 64 p) →
      (s.hostWrite a b).flight = some { f with taint := true }) ∧
    ((∀ p, p < sl.length.toNat → a ≠ sl.start + BitVec.ofNat 64 p) → (s.hostWrite a b).flight = some f)

/-- A Host access of one byte in the register window is an access of an unsupported width (R46, R51; log 15). -/
def Obligations.ByteAccessToTheWindowIsRefused : Prop :=
  ∀ (s : State) (ts : List Turn) (line : HostLine) (a v : Expr) (x : Var) (lines : List HostLine),
    s.refusalMark = false → s.turns = .host :: ts → s.host.rest = line :: lines →
    line = .store a v ∨ line = .load a x → s.platform.window.contains (a.eval s.host.vars) = true →
      Machine.step s = .next
        { s with refusalMark := true, turns := ts, host := { s.host with rest := lines } }

/-- R42: no command and no register access writes Host memory. -/
def Obligations.NoAccessOrCommandWritesHostMemory : Prop :=
  ∀ (i : Instr) (s t : State), Machine.exec i s = .next t →
    ∀ a, readByte t.memory a = readByte s.memory a

/-! ## Frames and whole-machine rules -/

/-- Every Host access to the window answers a next state, in every state (R111, R112, R117 to R126). That a read of an unwritten
register, a recorded fault (R119, R121), does so is the model's (log 2, log 3), and so is that a refused access (R46) does
(log 4). -/
def Obligations.EveryHostAccessCompletes : Prop :=
  ∀ (i : Instr) (s : State), isCommand i = false → ∃ t, Machine.exec i s = .next t

/-- R96, R109: a command writes only RESULT and STATUS (and ends, or records its fault): ARG0, ARG1, DROP, Host memory, the
Host, the platform and the refusal mark stay. The counter draws is the model's (log 10), and so is that a recorded fault is a
next state (log 2). -/
def Obligations.CommandFrame : Prop :=
  ∀ (i : Instr) (s t : State), isCommand i = true → Machine.exec i s = .next t →
    t = { s with result := t.result, rv := t.rv, err := t.err, flight := t.flight,
                 faultRecord := t.faultRecord, draws := t.draws } ∧
    (t.flight = none ∧ t.faultRecord = s.faultRecord ∨ t = { s with faultRecord := some .unwrittenOperand })

/-- R47: reads of the window change no register, flag, latch or byte; writes change only the register written, and WR CMD only
what R111 and R112 name. The fault record changes at a read of an unwritten register only (R119, R121), and the refusal mark at
an unsupported access only (R46). -/
def Obligations.HostAccessFrame : Prop :=
  ∀ (i : Instr) (s t : State), isCommand i = false → Machine.exec i s = .next t →
    t.result = s.result ∧ t.memory = s.memory ∧ t.host = s.host ∧ t.platform = s.platform ∧ t.turns = s.turns ∧
    (t.arg0 = s.arg0 ∨ ∃ v, i = .wrArg0 v) ∧ (t.arg1 = s.arg1 ∨ ∃ v, i = .wrArg1 v) ∧
    (t.rv = s.rv ∧ t.drop = s.drop ∧ t.err = s.err ∧ t.flight = s.flight ∨ ∃ w, i = .wrCmd w) ∧
    (t.faultRecord = s.faultRecord ∨ i = .rdArg0 ∧ s.arg0.unwritten = true ∨ i = .rdArg1 ∧ s.arg1.unwritten = true ∨
      i = .rdResult ∧ s.result.unwritten = true) ∧
    (t.refusalMark = s.refusalMark ∨ ∃ width request, i = .refusedAccess width request)

/-- R20: RESULT is written only at a completion without error (a reset apart), and an error leaves it unchanged. -/
def Obligations.OnlySuccessWritesResult : Prop :=
  ∀ s t : State, Machine.step s = .next t → t.result ≠ s.result →
    (∃ ts, s.turns = .reset :: ts) ∨ (s.busy = true ∧ t.busy = false ∧ t.rv = true ∧ t.err = 0#4)

/-- R143: a recorded fault is never cleared by an access or a command, and the Unit takes no further step. -/
def Obligations.RecordedFaultStaysAndHaltsTheUnit : Prop :=
  ∀ (i : Instr) (s : State) (r : RecordedFault), s.faultRecord = some r →
    (∀ t, Machine.exec i s = .next t → t.faultRecord = some r) ∧
    (isCommand i = true → s.busy = true → Machine.exec i s = .fault .unitHalted)

/-- Every step keeps the invariant (R21 to R25, R35, R55, R113, and the canonical form of Host memory). -/
def Obligations.EveryStepKeepsTheInvariant : Prop :=
  ∀ s t : State, s.Inv → Machine.step s = .next t → t.Inv

/-- The state after reset meets the invariant. -/
def Obligations.ResetMeetsTheInvariant : Prop := State.reset.Inv

/-! ## Host reads of its memory -/

/-- R3, R130: a Host read of one byte of Host memory binds the line's variable to that byte, zero-extended, and changes nothing
else but the turn and the line: no byte, no TAINT, no register. The load line, its zero-extension and the turn are the model's
(log 8, log 7). -/
def Obligations.HostLoadBindsTheByteRead : Prop :=
  ∀ (s : State) (ts : List Turn) (a : Expr) (x : Var) (lines : List HostLine), s.refusalMark = false →
    s.turns = .host :: ts → s.host.rest = .load a x :: lines → s.platform.window.contains (a.eval s.host.vars) = false →
    ∃ t, Machine.step s = .next t ∧
      readVar t.host.vars x = (readByte s.memory (a.eval s.host.vars)).setWidth 64 ∧
      (∀ y, y ≠ x → readVar t.host.vars y = readVar s.host.vars y) ∧
      t = { s with turns := ts, host := { s.host with rest := lines, vars := t.host.vars } }
end

