-- ==== Sys2Proof/Laws/Memory.lean ====
section
/-! SUPPORT. The laws of sparse data and of Host memory: read after write, and that every memory operation keeps the canonical form. -/

namespace Sys2Proof.Machine

namespace Assoc

variable {α : Type}

@[simp] theorem get?_set_self (k : Nat) (v : α) (m : List (Nat × α)) : get? k (set k v m) = some v := by
  induction m with
  | nil => simp [set, get?]
  | cons c rest ih =>
    obtain ⟨k', v'⟩ := c
    by_cases h1 : k < k'
    · simp [set, h1, get?]
    · by_cases h2 : k = k'
      · simp [set, h2, get?]
      · simp [set, h1, h2, get?, ih]

theorem get?_set_ne {k k₀ : Nat} (h : k₀ ≠ k) (v : α) (m : List (Nat × α)) : get? k₀ (set k v m) = get? k₀ m := by
  induction m with
  | nil => simp [set, get?, h]
  | cons c rest ih =>
    obtain ⟨k', v'⟩ := c
    by_cases h1 : k < k'
    · simp [set, h1, get?, h]
    · by_cases h2 : k = k'
      · subst h2; simp [set, get?, h]
      · simp [set, h1, h2, get?, ih]

/-- Every entry of `set k v m` is the new one or one of `m`. -/
theorem mem_set {k : Nat} {v : α} {m : List (Nat × α)} {c : Nat × α} (h : c ∈ set k v m) : c = (k, v) ∨ c ∈ m := by
  induction m with
  | nil => simpa [set] using h
  | cons d rest ih =>
    obtain ⟨k', v'⟩ := d
    by_cases h1 : k < k'
    · simpa [set, h1] using h
    · by_cases h2 : k = k'
      · simp only [set, h2, Nat.lt_irrefl, if_false, if_true, List.mem_cons] at h ⊢
        rcases h with h | h
        · exact .inl h
        · exact .inr (.inr h)
      · simp only [set, h1, h2, if_false, List.mem_cons] at h ⊢
        rcases h with h | h
        · exact .inr (.inl h)
        · rcases ih h with h | h
          · exact .inl h
          · exact .inr (.inr h)

theorem pairwise_set (k : Nat) (v : α) {m : List (Nat × α)} (h : m.Pairwise (fun a b => a.1 < b.1)) :
    (set k v m).Pairwise (fun a b => a.1 < b.1) := by
  induction m with
  | nil => simp [set]
  | cons d rest ih =>
    obtain ⟨k', v'⟩ := d
    obtain ⟨hd, hr⟩ := List.pairwise_cons.mp h
    by_cases h1 : k < k'
    · simp only [set, h1, if_true]
      refine List.pairwise_cons.mpr ⟨fun c hc => ?_, h⟩
      rcases List.mem_cons.mp hc with rfl | hc
      · exact h1
      · exact Nat.lt_trans h1 (hd c hc)
    · by_cases h2 : k = k'
      · subst h2
        simp only [set, Nat.lt_irrefl, if_false, if_true]
        exact List.pairwise_cons.mpr ⟨hd, hr⟩
      · simp only [set, h1, h2, if_false]
        refine List.pairwise_cons.mpr ⟨fun c hc => ?_, ih hr⟩
        rcases mem_set hc with rfl | hc
        · show k' < k
          omega
        · exact hd c hc

theorem wf_set {bound k : Nat} (hk : k < bound) (v : α) {m : List (Nat × α)} (h : wf bound m) : wf bound (set k v m) := by
  refine ⟨pairwise_set k v h.1, fun c hc => ?_⟩
  rcases mem_set hc with rfl | hc
  · exact hk
  · exact h.2 c hc

end Assoc

@[simp] theorem readByte_writeByte_self (m : Memory) (a : Word) (b : Byte) : readByte (writeByte m a b) a = b := by
  simp [readByte, writeByte]

theorem readByte_writeByte_ne {a a' : Word} (h : a' ≠ a) (m : Memory) (b : Byte) :
    readByte (writeByte m a b) a' = readByte m a' := by
  have : a'.toNat ≠ a.toNat := fun e => h (BitVec.eq_of_toNat_eq e)
  simp [readByte, writeByte, Assoc.get?_set_ne this]

/-- A byte write keeps the canonical form. -/
theorem writeByte_wf {m : Memory} (a : Word) (b : Byte) (h : Memory.wf m) : Memory.wf (writeByte m a b) :=
  Assoc.wf_set a.isLt b h

/-- Placing a text keeps the canonical form. -/
theorem writeBytes_wf {m : Memory} (a : Word) (bs : List Byte) (h : Memory.wf m) : Memory.wf (writeBytes m a bs) := by
  induction bs generalizing m a with
  | nil => exact h
  | cons b bs ih => exact ih _ (writeByte_wf a b h)

/-- A Host variable just set reads as what it was set to. -/
@[simp] theorem readVar_set_self (x : Var) (v : Word) (vars : List (Nat × Word)) : readVar (Assoc.set x v vars) x = v := by
  simp [readVar]

/-- Setting a Host variable leaves every other one. -/
theorem readVar_set_ne {x y : Var} (h : y ≠ x) (v : Word) (vars : List (Nat × Word)) :
    readVar (Assoc.set x v vars) y = readVar vars y := by
  simp [readVar, Assoc.get?_set_ne h]

/-- Reset memory is in canonical form. -/
theorem reset_memory_wf : Memory.wf State.reset.memory := by decide

end Sys2Proof.Machine
end

