-- ==== Sys2Proof/Laws/State.lean ====
section
/-! SUPPORT. One lemma per field per update of State, so that no proof unfolds a record update. -/

namespace Sys2Proof.Machine

/-! ### setArg0 -/

@[simp] theorem State.setArg0_arg0 (v : Word) (s : State) : (s.setArg0 v).arg0 = .written v := rfl
@[simp] theorem State.setArg0_arg1 (v : Word) (s : State) : (s.setArg0 v).arg1 = s.arg1 := rfl
@[simp] theorem State.setArg0_result (v : Word) (s : State) : (s.setArg0 v).result = s.result := rfl
@[simp] theorem State.setArg0_rv (v : Word) (s : State) : (s.setArg0 v).rv = s.rv := rfl
@[simp] theorem State.setArg0_drop (v : Word) (s : State) : (s.setArg0 v).drop = s.drop := rfl
@[simp] theorem State.setArg0_err (v : Word) (s : State) : (s.setArg0 v).err = s.err := rfl
@[simp] theorem State.setArg0_flight (v : Word) (s : State) : (s.setArg0 v).flight = s.flight := rfl
@[simp] theorem State.setArg0_faultRecord (v : Word) (s : State) : (s.setArg0 v).faultRecord = s.faultRecord := rfl
@[simp] theorem State.setArg0_refusalMark (v : Word) (s : State) : (s.setArg0 v).refusalMark = s.refusalMark := rfl
@[simp] theorem State.setArg0_memory (v : Word) (s : State) : (s.setArg0 v).memory = s.memory := rfl
@[simp] theorem State.setArg0_host (v : Word) (s : State) : (s.setArg0 v).host = s.host := rfl
@[simp] theorem State.setArg0_platform (v : Word) (s : State) : (s.setArg0 v).platform = s.platform := rfl
@[simp] theorem State.setArg0_turns (v : Word) (s : State) : (s.setArg0 v).turns = s.turns := rfl
@[simp] theorem State.setArg0_readData (v : Word) (s : State) : (s.setArg0 v).readData = s.readData := rfl
@[simp] theorem State.setArg0_draws (v : Word) (s : State) : (s.setArg0 v).draws = s.draws := rfl

/-! ### setArg1 -/

@[simp] theorem State.setArg1_arg0 (v : Word) (s : State) : (s.setArg1 v).arg0 = s.arg0 := rfl
@[simp] theorem State.setArg1_arg1 (v : Word) (s : State) : (s.setArg1 v).arg1 = .written v := rfl
@[simp] theorem State.setArg1_result (v : Word) (s : State) : (s.setArg1 v).result = s.result := rfl
@[simp] theorem State.setArg1_rv (v : Word) (s : State) : (s.setArg1 v).rv = s.rv := rfl
@[simp] theorem State.setArg1_drop (v : Word) (s : State) : (s.setArg1 v).drop = s.drop := rfl
@[simp] theorem State.setArg1_err (v : Word) (s : State) : (s.setArg1 v).err = s.err := rfl
@[simp] theorem State.setArg1_flight (v : Word) (s : State) : (s.setArg1 v).flight = s.flight := rfl
@[simp] theorem State.setArg1_faultRecord (v : Word) (s : State) : (s.setArg1 v).faultRecord = s.faultRecord := rfl
@[simp] theorem State.setArg1_refusalMark (v : Word) (s : State) : (s.setArg1 v).refusalMark = s.refusalMark := rfl
@[simp] theorem State.setArg1_memory (v : Word) (s : State) : (s.setArg1 v).memory = s.memory := rfl
@[simp] theorem State.setArg1_host (v : Word) (s : State) : (s.setArg1 v).host = s.host := rfl
@[simp] theorem State.setArg1_platform (v : Word) (s : State) : (s.setArg1 v).platform = s.platform := rfl
@[simp] theorem State.setArg1_turns (v : Word) (s : State) : (s.setArg1 v).turns = s.turns := rfl
@[simp] theorem State.setArg1_readData (v : Word) (s : State) : (s.setArg1 v).readData = s.readData := rfl
@[simp] theorem State.setArg1_draws (v : Word) (s : State) : (s.setArg1 v).draws = s.draws := rfl

/-! ### setReadData -/

@[simp] theorem State.setReadData_arg0 (v : Word) (s : State) : (s.setReadData v).arg0 = s.arg0 := rfl
@[simp] theorem State.setReadData_arg1 (v : Word) (s : State) : (s.setReadData v).arg1 = s.arg1 := rfl
@[simp] theorem State.setReadData_result (v : Word) (s : State) : (s.setReadData v).result = s.result := rfl
@[simp] theorem State.setReadData_rv (v : Word) (s : State) : (s.setReadData v).rv = s.rv := rfl
@[simp] theorem State.setReadData_drop (v : Word) (s : State) : (s.setReadData v).drop = s.drop := rfl
@[simp] theorem State.setReadData_err (v : Word) (s : State) : (s.setReadData v).err = s.err := rfl
@[simp] theorem State.setReadData_flight (v : Word) (s : State) : (s.setReadData v).flight = s.flight := rfl
@[simp] theorem State.setReadData_faultRecord (v : Word) (s : State) : (s.setReadData v).faultRecord = s.faultRecord := rfl
@[simp] theorem State.setReadData_refusalMark (v : Word) (s : State) : (s.setReadData v).refusalMark = s.refusalMark := rfl
@[simp] theorem State.setReadData_memory (v : Word) (s : State) : (s.setReadData v).memory = s.memory := rfl
@[simp] theorem State.setReadData_host (v : Word) (s : State) : (s.setReadData v).host = s.host := rfl
@[simp] theorem State.setReadData_platform (v : Word) (s : State) : (s.setReadData v).platform = s.platform := rfl
@[simp] theorem State.setReadData_turns (v : Word) (s : State) : (s.setReadData v).turns = s.turns := rfl
@[simp] theorem State.setReadData_readData (v : Word) (s : State) : (s.setReadData v).readData = v := rfl
@[simp] theorem State.setReadData_draws (v : Word) (s : State) : (s.setReadData v).draws = s.draws := rfl

/-! ### countDraw -/

@[simp] theorem State.countDraw_arg0 (s : State) : (s.countDraw).arg0 = s.arg0 := rfl
@[simp] theorem State.countDraw_arg1 (s : State) : (s.countDraw).arg1 = s.arg1 := rfl
@[simp] theorem State.countDraw_result (s : State) : (s.countDraw).result = s.result := rfl
@[simp] theorem State.countDraw_rv (s : State) : (s.countDraw).rv = s.rv := rfl
@[simp] theorem State.countDraw_drop (s : State) : (s.countDraw).drop = s.drop := rfl
@[simp] theorem State.countDraw_err (s : State) : (s.countDraw).err = s.err := rfl
@[simp] theorem State.countDraw_flight (s : State) : (s.countDraw).flight = s.flight := rfl
@[simp] theorem State.countDraw_faultRecord (s : State) : (s.countDraw).faultRecord = s.faultRecord := rfl
@[simp] theorem State.countDraw_refusalMark (s : State) : (s.countDraw).refusalMark = s.refusalMark := rfl
@[simp] theorem State.countDraw_memory (s : State) : (s.countDraw).memory = s.memory := rfl
@[simp] theorem State.countDraw_host (s : State) : (s.countDraw).host = s.host := rfl
@[simp] theorem State.countDraw_platform (s : State) : (s.countDraw).platform = s.platform := rfl
@[simp] theorem State.countDraw_turns (s : State) : (s.countDraw).turns = s.turns := rfl
@[simp] theorem State.countDraw_readData (s : State) : (s.countDraw).readData = s.readData := rfl
@[simp] theorem State.countDraw_draws (s : State) : (s.countDraw).draws = s.draws + 1 := rfl

/-! ### recordFault -/

@[simp] theorem State.recordFault_arg0 (r : RecordedFault) (s : State) : (s.recordFault r).arg0 = s.arg0 := rfl
@[simp] theorem State.recordFault_arg1 (r : RecordedFault) (s : State) : (s.recordFault r).arg1 = s.arg1 := rfl
@[simp] theorem State.recordFault_result (r : RecordedFault) (s : State) : (s.recordFault r).result = s.result := rfl
@[simp] theorem State.recordFault_rv (r : RecordedFault) (s : State) : (s.recordFault r).rv = s.rv := rfl
@[simp] theorem State.recordFault_drop (r : RecordedFault) (s : State) : (s.recordFault r).drop = s.drop := rfl
@[simp] theorem State.recordFault_err (r : RecordedFault) (s : State) : (s.recordFault r).err = s.err := rfl
@[simp] theorem State.recordFault_flight (r : RecordedFault) (s : State) : (s.recordFault r).flight = s.flight := rfl
@[simp] theorem State.recordFault_faultRecord (r : RecordedFault) (s : State) : (s.recordFault r).faultRecord = some (s.faultRecord.getD r) := rfl
@[simp] theorem State.recordFault_refusalMark (r : RecordedFault) (s : State) : (s.recordFault r).refusalMark = s.refusalMark := rfl
@[simp] theorem State.recordFault_memory (r : RecordedFault) (s : State) : (s.recordFault r).memory = s.memory := rfl
@[simp] theorem State.recordFault_host (r : RecordedFault) (s : State) : (s.recordFault r).host = s.host := rfl
@[simp] theorem State.recordFault_platform (r : RecordedFault) (s : State) : (s.recordFault r).platform = s.platform := rfl
@[simp] theorem State.recordFault_turns (r : RecordedFault) (s : State) : (s.recordFault r).turns = s.turns := rfl
@[simp] theorem State.recordFault_readData (r : RecordedFault) (s : State) : (s.recordFault r).readData = s.readData := rfl
@[simp] theorem State.recordFault_draws (r : RecordedFault) (s : State) : (s.recordFault r).draws = s.draws := rfl

/-! ### markRefused -/

@[simp] theorem State.markRefused_arg0 (s : State) : (s.markRefused).arg0 = s.arg0 := rfl
@[simp] theorem State.markRefused_arg1 (s : State) : (s.markRefused).arg1 = s.arg1 := rfl
@[simp] theorem State.markRefused_result (s : State) : (s.markRefused).result = s.result := rfl
@[simp] theorem State.markRefused_rv (s : State) : (s.markRefused).rv = s.rv := rfl
@[simp] theorem State.markRefused_drop (s : State) : (s.markRefused).drop = s.drop := rfl
@[simp] theorem State.markRefused_err (s : State) : (s.markRefused).err = s.err := rfl
@[simp] theorem State.markRefused_flight (s : State) : (s.markRefused).flight = s.flight := rfl
@[simp] theorem State.markRefused_faultRecord (s : State) : (s.markRefused).faultRecord = s.faultRecord := rfl
@[simp] theorem State.markRefused_refusalMark (s : State) : (s.markRefused).refusalMark = true := rfl
@[simp] theorem State.markRefused_memory (s : State) : (s.markRefused).memory = s.memory := rfl
@[simp] theorem State.markRefused_host (s : State) : (s.markRefused).host = s.host := rfl
@[simp] theorem State.markRefused_platform (s : State) : (s.markRefused).platform = s.platform := rfl
@[simp] theorem State.markRefused_turns (s : State) : (s.markRefused).turns = s.turns := rfl
@[simp] theorem State.markRefused_readData (s : State) : (s.markRefused).readData = s.readData := rfl
@[simp] theorem State.markRefused_draws (s : State) : (s.markRefused).draws = s.draws := rfl

/-! ### accept -/

@[simp] theorem State.accept_arg0 (w : Word) (s : State) : (s.accept w).arg0 = s.arg0 := rfl
@[simp] theorem State.accept_arg1 (w : Word) (s : State) : (s.accept w).arg1 = s.arg1 := rfl
@[simp] theorem State.accept_result (w : Word) (s : State) : (s.accept w).result = s.result := rfl
@[simp] theorem State.accept_rv (w : Word) (s : State) : (s.accept w).rv = false := rfl
@[simp] theorem State.accept_drop (w : Word) (s : State) : (s.accept w).drop = false := rfl
@[simp] theorem State.accept_err (w : Word) (s : State) : (s.accept w).err = noError := rfl
@[simp] theorem State.accept_flight (w : Word) (s : State) : (s.accept w).flight = some { lop := w, la0 := s.arg0, la1 := s.arg1, taint := false } := rfl
@[simp] theorem State.accept_faultRecord (w : Word) (s : State) : (s.accept w).faultRecord = s.faultRecord := rfl
@[simp] theorem State.accept_refusalMark (w : Word) (s : State) : (s.accept w).refusalMark = s.refusalMark := rfl
@[simp] theorem State.accept_memory (w : Word) (s : State) : (s.accept w).memory = s.memory := rfl
@[simp] theorem State.accept_host (w : Word) (s : State) : (s.accept w).host = s.host := rfl
@[simp] theorem State.accept_platform (w : Word) (s : State) : (s.accept w).platform = s.platform := rfl
@[simp] theorem State.accept_turns (w : Word) (s : State) : (s.accept w).turns = s.turns := rfl
@[simp] theorem State.accept_readData (w : Word) (s : State) : (s.accept w).readData = s.readData := rfl
@[simp] theorem State.accept_draws (w : Word) (s : State) : (s.accept w).draws = s.draws := rfl

/-! ### dropCommand -/

@[simp] theorem State.dropCommand_arg0 (s : State) : (s.dropCommand).arg0 = s.arg0 := rfl
@[simp] theorem State.dropCommand_arg1 (s : State) : (s.dropCommand).arg1 = s.arg1 := rfl
@[simp] theorem State.dropCommand_result (s : State) : (s.dropCommand).result = s.result := rfl
@[simp] theorem State.dropCommand_rv (s : State) : (s.dropCommand).rv = s.rv := rfl
@[simp] theorem State.dropCommand_drop (s : State) : (s.dropCommand).drop = true := rfl
@[simp] theorem State.dropCommand_err (s : State) : (s.dropCommand).err = s.err := rfl
@[simp] theorem State.dropCommand_flight (s : State) : (s.dropCommand).flight = s.flight := rfl
@[simp] theorem State.dropCommand_faultRecord (s : State) : (s.dropCommand).faultRecord = s.faultRecord := rfl
@[simp] theorem State.dropCommand_refusalMark (s : State) : (s.dropCommand).refusalMark = s.refusalMark := rfl
@[simp] theorem State.dropCommand_memory (s : State) : (s.dropCommand).memory = s.memory := rfl
@[simp] theorem State.dropCommand_host (s : State) : (s.dropCommand).host = s.host := rfl
@[simp] theorem State.dropCommand_platform (s : State) : (s.dropCommand).platform = s.platform := rfl
@[simp] theorem State.dropCommand_turns (s : State) : (s.dropCommand).turns = s.turns := rfl
@[simp] theorem State.dropCommand_readData (s : State) : (s.dropCommand).readData = s.readData := rfl
@[simp] theorem State.dropCommand_draws (s : State) : (s.dropCommand).draws = s.draws := rfl

/-! ### complete -/

@[simp] theorem State.complete_arg0 (o : CommandOutcome) (s : State) : (s.complete o).arg0 = s.arg0 := by cases o <;> rfl
@[simp] theorem State.complete_arg1 (o : CommandOutcome) (s : State) : (s.complete o).arg1 = s.arg1 := by cases o <;> rfl
@[simp] theorem State.complete_drop (o : CommandOutcome) (s : State) : (s.complete o).drop = s.drop := by cases o <;> rfl
@[simp] theorem State.complete_flight (o : CommandOutcome) (s : State) : (s.complete o).flight = none := by cases o <;> rfl
@[simp] theorem State.complete_faultRecord (o : CommandOutcome) (s : State) : (s.complete o).faultRecord = s.faultRecord := by cases o <;> rfl
@[simp] theorem State.complete_refusalMark (o : CommandOutcome) (s : State) : (s.complete o).refusalMark = s.refusalMark := by cases o <;> rfl
@[simp] theorem State.complete_memory (o : CommandOutcome) (s : State) : (s.complete o).memory = s.memory := by cases o <;> rfl
@[simp] theorem State.complete_host (o : CommandOutcome) (s : State) : (s.complete o).host = s.host := by cases o <;> rfl
@[simp] theorem State.complete_platform (o : CommandOutcome) (s : State) : (s.complete o).platform = s.platform := by cases o <;> rfl
@[simp] theorem State.complete_turns (o : CommandOutcome) (s : State) : (s.complete o).turns = s.turns := by cases o <;> rfl
@[simp] theorem State.complete_readData (o : CommandOutcome) (s : State) : (s.complete o).readData = s.readData := by cases o <;> rfl
@[simp] theorem State.complete_draws (o : CommandOutcome) (s : State) : (s.complete o).draws = s.draws := by cases o <;> rfl

/-! ### hostWrite -/

@[simp] theorem State.hostWrite_arg0 (a : Word) (b : Byte) (s : State) : (s.hostWrite a b).arg0 = s.arg0 := rfl
@[simp] theorem State.hostWrite_arg1 (a : Word) (b : Byte) (s : State) : (s.hostWrite a b).arg1 = s.arg1 := rfl
@[simp] theorem State.hostWrite_result (a : Word) (b : Byte) (s : State) : (s.hostWrite a b).result = s.result := rfl
@[simp] theorem State.hostWrite_rv (a : Word) (b : Byte) (s : State) : (s.hostWrite a b).rv = s.rv := rfl
@[simp] theorem State.hostWrite_drop (a : Word) (b : Byte) (s : State) : (s.hostWrite a b).drop = s.drop := rfl
@[simp] theorem State.hostWrite_err (a : Word) (b : Byte) (s : State) : (s.hostWrite a b).err = s.err := rfl
@[simp] theorem State.hostWrite_flight (a : Word) (b : Byte) (s : State) : (s.hostWrite a b).flight = s.flight.map (fun f => f.hostWrote a) := rfl
@[simp] theorem State.hostWrite_faultRecord (a : Word) (b : Byte) (s : State) : (s.hostWrite a b).faultRecord = s.faultRecord := rfl
@[simp] theorem State.hostWrite_refusalMark (a : Word) (b : Byte) (s : State) : (s.hostWrite a b).refusalMark = s.refusalMark := rfl
@[simp] theorem State.hostWrite_memory (a : Word) (b : Byte) (s : State) : (s.hostWrite a b).memory = writeByte s.memory a b := rfl
@[simp] theorem State.hostWrite_host (a : Word) (b : Byte) (s : State) : (s.hostWrite a b).host = s.host := rfl
@[simp] theorem State.hostWrite_platform (a : Word) (b : Byte) (s : State) : (s.hostWrite a b).platform = s.platform := rfl
@[simp] theorem State.hostWrite_turns (a : Word) (b : Byte) (s : State) : (s.hostWrite a b).turns = s.turns := rfl
@[simp] theorem State.hostWrite_readData (a : Word) (b : Byte) (s : State) : (s.hostWrite a b).readData = s.readData := rfl
@[simp] theorem State.hostWrite_draws (a : Word) (b : Byte) (s : State) : (s.hostWrite a b).draws = s.draws := rfl

/-! ### setVar -/

@[simp] theorem State.setVar_arg0 (x : Var) (v : Word) (s : State) : (s.setVar x v).arg0 = s.arg0 := rfl
@[simp] theorem State.setVar_arg1 (x : Var) (v : Word) (s : State) : (s.setVar x v).arg1 = s.arg1 := rfl
@[simp] theorem State.setVar_result (x : Var) (v : Word) (s : State) : (s.setVar x v).result = s.result := rfl
@[simp] theorem State.setVar_rv (x : Var) (v : Word) (s : State) : (s.setVar x v).rv = s.rv := rfl
@[simp] theorem State.setVar_drop (x : Var) (v : Word) (s : State) : (s.setVar x v).drop = s.drop := rfl
@[simp] theorem State.setVar_err (x : Var) (v : Word) (s : State) : (s.setVar x v).err = s.err := rfl
@[simp] theorem State.setVar_flight (x : Var) (v : Word) (s : State) : (s.setVar x v).flight = s.flight := rfl
@[simp] theorem State.setVar_faultRecord (x : Var) (v : Word) (s : State) : (s.setVar x v).faultRecord = s.faultRecord := rfl
@[simp] theorem State.setVar_refusalMark (x : Var) (v : Word) (s : State) : (s.setVar x v).refusalMark = s.refusalMark := rfl
@[simp] theorem State.setVar_memory (x : Var) (v : Word) (s : State) : (s.setVar x v).memory = s.memory := rfl
@[simp] theorem State.setVar_host (x : Var) (v : Word) (s : State) : (s.setVar x v).host = { s.host with vars := Assoc.set x v s.host.vars } := rfl
@[simp] theorem State.setVar_platform (x : Var) (v : Word) (s : State) : (s.setVar x v).platform = s.platform := rfl
@[simp] theorem State.setVar_turns (x : Var) (v : Word) (s : State) : (s.setVar x v).turns = s.turns := rfl
@[simp] theorem State.setVar_readData (x : Var) (v : Word) (s : State) : (s.setVar x v).readData = s.readData := rfl
@[simp] theorem State.setVar_draws (x : Var) (v : Word) (s : State) : (s.setVar x v).draws = s.draws := rfl

/-! ### setRest -/

@[simp] theorem State.setRest_arg0 (lines : List HostLine) (s : State) : (s.setRest lines).arg0 = s.arg0 := rfl
@[simp] theorem State.setRest_arg1 (lines : List HostLine) (s : State) : (s.setRest lines).arg1 = s.arg1 := rfl
@[simp] theorem State.setRest_result (lines : List HostLine) (s : State) : (s.setRest lines).result = s.result := rfl
@[simp] theorem State.setRest_rv (lines : List HostLine) (s : State) : (s.setRest lines).rv = s.rv := rfl
@[simp] theorem State.setRest_drop (lines : List HostLine) (s : State) : (s.setRest lines).drop = s.drop := rfl
@[simp] theorem State.setRest_err (lines : List HostLine) (s : State) : (s.setRest lines).err = s.err := rfl
@[simp] theorem State.setRest_flight (lines : List HostLine) (s : State) : (s.setRest lines).flight = s.flight := rfl
@[simp] theorem State.setRest_faultRecord (lines : List HostLine) (s : State) : (s.setRest lines).faultRecord = s.faultRecord := rfl
@[simp] theorem State.setRest_refusalMark (lines : List HostLine) (s : State) : (s.setRest lines).refusalMark = s.refusalMark := rfl
@[simp] theorem State.setRest_memory (lines : List HostLine) (s : State) : (s.setRest lines).memory = s.memory := rfl
@[simp] theorem State.setRest_host (lines : List HostLine) (s : State) : (s.setRest lines).host = { s.host with rest := lines } := rfl
@[simp] theorem State.setRest_platform (lines : List HostLine) (s : State) : (s.setRest lines).platform = s.platform := rfl
@[simp] theorem State.setRest_turns (lines : List HostLine) (s : State) : (s.setRest lines).turns = s.turns := rfl
@[simp] theorem State.setRest_readData (lines : List HostLine) (s : State) : (s.setRest lines).readData = s.readData := rfl
@[simp] theorem State.setRest_draws (lines : List HostLine) (s : State) : (s.setRest lines).draws = s.draws := rfl

/-! ### complete, by its outcome -/

@[simp] theorem State.complete_value_result (v : Word) (s : State) : (s.complete (.value v)).result = .written v := rfl
@[simp] theorem State.complete_value_rv (v : Word) (s : State) : (s.complete (.value v)).rv = true := rfl
@[simp] theorem State.complete_value_err (v : Word) (s : State) : (s.complete (.value v)).err = noError := rfl
@[simp] theorem State.complete_error_result (e : ErrorCode) (s : State) : (s.complete (.error e)).result = s.result := rfl
@[simp] theorem State.complete_error_rv (e : ErrorCode) (s : State) : (s.complete (.error e)).rv = false := rfl
@[simp] theorem State.complete_error_err (e : ErrorCode) (s : State) : (s.complete (.error e)).err = e.code := rfl

/-! ### views -/

theorem State.busy_of_flight {s : State} {f : Flight} (h : s.flight = some f) : s.busy = true := by
  simp [State.busy, h]

theorem State.busy_eq_false {s : State} : s.busy = false ↔ s.flight = none := by
  simp [State.busy]

@[simp] theorem State.complete_busy (o : CommandOutcome) (s : State) : (s.complete o).busy = false := by
  cases o <;> rfl

@[simp] theorem ErrorCode.code_le (e : ErrorCode) : e.code.toNat ≤ 4 := by cases e <;> decide

end Sys2Proof.Machine
end

