-- ==== Sys2Proof/Laws/Exec.lean ====
section
/-! SUPPORT. What each shared operation and exec can do, said once: inversion lemmas the proofs cite instead of unfolding. -/

namespace Sys2Proof.Machine

/-- The Unit has its step exactly when a command is in flight and no fault is recorded. -/
theorem unitStep_eq {body : Flight → State → Result} {s : State} {f : Flight} (h : InFlight f s) :
    unitStep body s = body f s := by
  simp [unitStep, h.1, h.2]

theorem unitStep_halted {body : Flight → State → Result} {s : State} {f : Flight} {r : RecordedFault}
    (hf : s.flight = some f) (hr : s.faultRecord = some r) : unitStep body s = .fault .unitHalted := by
  simp [unitStep, hf, hr]

theorem unitStep_idle {body : Flight → State → Result} {s : State} (hf : s.flight = none) :
    unitStep body s = .fault .noCommandInFlight := by
  simp [unitStep, hf]

theorem unitStep_next {body : Flight → State → Result} {s t : State} (h : unitStep body s = .next t) :
    ∃ f, InFlight f s ∧ body f s = .next t := by
  unfold unitStep at h
  split at h
  · cases h
  · rename_i f hf
    split at h
    · cases h
    · rename_i hr
      exact ⟨f, ⟨hf, hr⟩, h⟩

/-- Recording a fault where none is recorded. -/
theorem recordFault_eq {s : State} (h : s.faultRecord = none) (r : RecordedFault) :
    s.recordFault r = { s with faultRecord := some r } := by
  simp [State.recordFault, h]

/-- What the body of a parse command does, case by case, in the order of R137. -/
theorem parseBody_cases (checked : Bool) (form : SliceForm) (f : Flight) (s : State) :
    ((f.la0.unwritten = true ∨ f.la1.unwritten = true) ∧
      parseBody checked form f s = .next (s.recordFault .unwrittenOperand)) ∨
    ((f.la0.unwritten = false ∧ f.la1.unwritten = false) ∧
      ((∃ e, lencheck (sliceOf form f.la0.value f.la1.value).length = some e ∧
          parseBody checked form f s = .next (s.complete (.error e))) ∨
       (lencheck (sliceOf form f.la0.value f.la1.value).length = none ∧
         ((s.platform.admitsSlice (sliceOf form f.la0.value f.la1.value) = false ∧
            parseBody checked form f s = .fault .stuckSlice) ∨
          (s.platform.admitsSlice (sliceOf form f.la0.value f.la1.value) = true ∧ f.taint = true ∧
            parseBody checked form f s = .next (s.complete (drawnOutcome checked s.draws)).countDraw) ∨
          (s.platform.admitsSlice (sliceOf form f.la0.value f.la1.value) = true ∧ f.taint = false ∧
            parseBody checked form f s =
              .next (s.complete (parseOutcome checked (sliceBytes s.memory (sliceOf form f.la0.value f.la1.value))))))))) := by
  by_cases h0 : f.la0.unwritten = true ∨ f.la1.unwritten = true
  · exact .inl ⟨h0, by simp [parseBody, h0]⟩
  · refine .inr ⟨by simpa using h0, ?_⟩
    have h0' : ¬(f.la0.unwritten || f.la1.unwritten) = true := by simpa using h0
    unfold parseBody
    rw [if_neg h0']
    cases hl : lencheck (sliceOf form f.la0.value f.la1.value).length with
    | some e => exact .inl ⟨e, rfl, rfl⟩
    | none =>
      refine .inr ⟨rfl, ?_⟩
      cases ha : s.platform.admitsSlice (sliceOf form f.la0.value f.la1.value) with
      | false => exact .inl ⟨rfl, by simp⟩
      | true => cases ht : f.taint <;> simp

/-- A completion: what a command's meaning can answer when it answers a next state. -/
theorem parseBody_next {checked : Bool} {form : SliceForm} {f : Flight} {s t : State}
    (h : parseBody checked form f s = .next t) :
    t = s.recordFault .unwrittenOperand ∨ ∃ o, t = s.complete o ∨ t = (s.complete o).countDraw := by
  obtain ⟨-, e⟩ | ⟨-, ⟨_, -, e⟩ | ⟨-, ⟨-, e⟩ | ⟨-, -, e⟩ | ⟨-, -, e⟩⟩⟩ := parseBody_cases checked form f s <;>
    rw [e] at h <;> cases h
  · exact .inl rfl
  · exact .inr ⟨_, .inl rfl⟩
  · exact .inr ⟨_, .inr rfl⟩
  · exact .inr ⟨_, .inl rfl⟩

/-- What a command (R114) can do when it answers a next state: record UnwrittenOperand, or complete. -/
theorem exec_command_next {i : Instr} {s t : State} (hi : isCommand i = true) (h : exec i s = .next t) :
    ∃ f, InFlight f s ∧
      (t = s.recordFault .unwrittenOperand ∨ ∃ o, t = s.complete o ∨ t = (s.complete o).countDraw) := by
  cases i <;> simp only [isCommand, Bool.false_eq_true] at hi
  case clz64 =>
    simp only [exec, execClz64] at h
    obtain ⟨f, hf, hb⟩ := unitStep_next h
    refine ⟨f, hf, ?_⟩
    split at hb <;> cases hb
    · exact .inl rfl
    · exact .inr ⟨_, .inl rfl⟩
  case illegal w =>
    simp only [exec, execIllegal] at h
    obtain ⟨f, hf, hb⟩ := unitStep_next h
    cases hb
    exact ⟨f, hf, .inr ⟨_, .inl rfl⟩⟩
  all_goals
    simp only [exec, execParsecL, execParsecE, execParseuL, execParseuE] at h
    obtain ⟨f, hf, hb⟩ := unitStep_next h
    exact ⟨f, hf, parseBody_next hb⟩

/-- What a Host read of a marked register does: it returns the value, or records the fault. -/
theorem readMarked_next {r : MarkedReg} {s t : State} (h : readMarked r s = .next t) :
    (∃ v, t = s.setReadData v) ∨ ∃ v, t = ((s.recordFault .unwrittenRegister).setReadData v).countDraw := by
  unfold readMarked at h
  split at h <;> cases h
  · exact .inr ⟨_, rfl⟩
  · exact .inl ⟨_, rfl⟩

/-- What a Host access can do: every one answers a next state, of one of these shapes. -/
theorem exec_access_next {i : Instr} (s : State) (hi : isCommand i = false) :
    ∃ t, exec i s = .next t ∧
      (t = s ∨ (∃ v, i = .wrArg0 v ∧ t = s.setArg0 v) ∨ (∃ v, i = .wrArg1 v ∧ t = s.setArg1 v) ∨
        (∃ w, i = .wrCmd w ∧ s.busy = true ∧ t = s.dropCommand) ∨
        (∃ w, i = .wrCmd w ∧ s.busy = false ∧ t = s.accept w) ∨
        (∃ v, t = s.setReadData v) ∨
        ((i = .rdArg0 ∧ s.arg0.unwritten = true ∨ i = .rdArg1 ∧ s.arg1.unwritten = true ∨
            i = .rdResult ∧ s.result.unwritten = true) ∧
          ∃ v, t = ((s.recordFault .unwrittenRegister).setReadData v).countDraw) ∨
        (∃ width request, i = .refusedAccess width request) ∧ t = s.markRefused) := by
  cases i <;> simp only [isCommand, Bool.true_eq_false] at hi
  case wrArg0 v => exact ⟨_, rfl, .inr (.inl ⟨v, rfl, rfl⟩)⟩
  case wrArg1 v => exact ⟨_, rfl, .inr (.inr (.inl ⟨v, rfl, rfl⟩))⟩
  case wrCmd w =>
    cases hb : s.busy
    · exact ⟨s.accept w, by simp [exec, execWrCmd, hb], .inr (.inr (.inr (.inr (.inl ⟨w, rfl, rfl, rfl⟩))))⟩
    · exact ⟨s.dropCommand, by simp [exec, execWrCmd, hb], .inr (.inr (.inr (.inl ⟨w, rfl, rfl, rfl⟩)))⟩
  case refusedAccess => exact ⟨_, rfl, by simp⟩
  case wrResult | wrStatus | wrId | wrRsvd => exact ⟨s, rfl, .inl rfl⟩
  case rdCmd | rdStatus | rdId | rdRsvd => exact ⟨_, rfl, .inr (.inr (.inr (.inr (.inr (.inl ⟨_, rfl⟩)))))⟩
  case rdArg0 | rdArg1 | rdResult =>
    simp only [exec, execRdArg0, execRdArg1, execRdResult, readMarked]
    split
    · rename_i hu
      exact ⟨_, rfl, .inr (.inr (.inr (.inr (.inr (.inr (.inl ⟨by simp [hu], _, rfl⟩))))))⟩
    · exact ⟨_, rfl, .inr (.inr (.inr (.inr (.inr (.inl ⟨_, rfl⟩)))))⟩

/-- exec leaves Host memory, the Host, the platform and the turns as they are (R42). -/
theorem exec_next_outside {i : Instr} {s t : State} (h : exec i s = .next t) :
    t.memory = s.memory ∧ t.host = s.host ∧ t.platform = s.platform ∧ t.turns = s.turns := by
  cases hi : isCommand i
  · obtain ⟨t', h', hc⟩ := exec_access_next s hi
    rw [h] at h'
    cases h'
    obtain rfl | ⟨_, -, rfl⟩ | ⟨_, -, rfl⟩ | ⟨_, -, -, rfl⟩ | ⟨_, -, -, rfl⟩ | ⟨_, rfl⟩ | ⟨-, _, rfl⟩ | ⟨-, rfl⟩ := hc <;> simp
  · obtain ⟨_, -, rfl | ⟨_, rfl | rfl⟩⟩ := exec_command_next hi h <;> simp

/-- Decoding a command word always gives a command. -/
theorem isCommand_decodeCommand (w : Word) : isCommand (decodeCommand w) = true := by
  unfold decodeCommand
  split_ifs <;> rfl

/-- Decoding a bus request always gives a Host access. -/
theorem isCommand_decodeBus (width : Nat) (request : Request) (data : Word) :
    isCommand (decodeBus width request data) = false := by
  unfold decodeBus decodeWrite decodeRead
  split_ifs <;> rfl

end Sys2Proof.Machine
end

