-- ==== Sys2Proof/Laws/Clz.lean ====
section
/-! SUPPORT. The laws of the leading-zero counter: the highest set bit, the 32-bit primitive and the halving. -/

namespace Sys2Proof.Machine

theorem msbBelow_le (v : BitVec 32) (k : Nat) : msbBelow v k ≤ k := by
  induction k with
  | zero => simp [msbBelow]
  | succ k ih =>
    rw [msbBelow]
    split <;> omega

/-- Above the index found and up to the start of the search, no bit is set. -/
theorem msbBelow_above (v : BitVec 32) {k j : Nat} (h : msbBelow v k < j) (hj : j ≤ k) : v.getLsbD j = false := by
  induction k with
  | zero => omega
  | succ k ih =>
    rw [msbBelow] at h
    split at h
    · omega
    · rename_i hb
      by_cases hjk : j = k + 1
      · subst hjk; simpa using hb
      · exact ih h (by omega)

/-- The bit found is set, if any bit up to the start of the search is. -/
theorem msbBelow_set (v : BitVec 32) {k j : Nat} (hj : j ≤ k) (h : v.getLsbD j = true) :
    v.getLsbD (msbBelow v k) = true := by
  induction k with
  | zero =>
    have : j = 0 := by omega
    subst this; simpa [msbBelow] using h
  | succ k ih =>
    rw [msbBelow]
    split
    · assumption
    · rename_i hb
      refine ih ?_
      by_contra hc
      have : j = k + 1 := by omega
      subst this
      exact hb h

theorem msb_le (v : BitVec 32) : msb v ≤ 31 := msbBelow_le v 31

theorem msb_above (v : BitVec 32) {j : Nat} (h : msb v < j) : v.getLsbD j = false := by
  by_cases hj : j ≤ 31
  · exact msbBelow_above v h hj
  · exact BitVec.getLsbD_of_ge v j (by omega)

theorem msb_set {v : BitVec 32} (h : v ≠ 0#32) : v.getLsbD (msb v) = true := by
  by_contra hc
  refine h (BitVec.eq_of_getLsbD_eq fun j hj => ?_)
  cases hb : v.getLsbD j
  · simp
  · exact absurd (msbBelow_set v (by omega) hb) hc

theorem clz32_toNat {v : BitVec 32} (h : v ≠ 0#32) : (clz32 v).toNat = 31 - msb v := by
  have := msb_le v
  simp [clz32, h]
  omega

/-- The count of CLZ64 as a number, by the half that is not zero (41_clz.md R104). -/
theorem clz64Count_toNat (x : Word) :
    (clz64Count x).toNat =
      if x.extractLsb' 32 32 ≠ 0#32 then 31 - msb (x.extractLsb' 32 32)
      else if x.extractLsb' 0 32 ≠ 0#32 then 63 - msb (x.extractLsb' 0 32) else 64 := by
  simp only [clz64Count]
  split_ifs with h1 h2
  · exact clz32_toNat h1
  · have := msb_le (x.extractLsb' 0 32)
    rw [BitVec.toNat_add, clz32_toNat h2]
    simp only [BitVec.toNat_ofNat]
    omega
  · rfl

end Sys2Proof.Machine
end

