-- ==== Sys2Proof/Laws/Decode.lean ====
section
/-! SUPPORT. The laws of the decoder: fields of a request word that is put together, and requests taken apart. -/

namespace Sys2Proof

@[simp] theorem requestWe_requestWord (we : Bool) (off : Offset) : requestWe (requestWord we off) = we := by
  show (BitVec.ofBool we ++ off).getLsbD 12 = we
  rw [BitVec.getLsbD_append, if_neg (by decide)]
  cases we <;> rfl

@[simp] theorem requestOff_requestWord (we : Bool) (off : Offset) : requestOff (requestWord we off) = off := by
  apply BitVec.eq_of_getLsbD_eq
  intro k hk
  show ((BitVec.ofBool we ++ off).extractLsb' 0 12).getLsbD k = off.getLsbD k
  rw [BitVec.getLsbD_extractLsb', BitVec.getLsbD_append, Nat.zero_add, if_pos hk, decide_eq_true hk, Bool.true_and]

/-- A request is its WE and OFF put together (30_encoding.md R68). -/
theorem requestWord_eta (r : Request) : requestWord (requestWe r) (requestOff r) = r := by
  apply BitVec.eq_of_getLsbD_eq
  intro k hk
  show (BitVec.ofBool (r.getLsbD 12) ++ r.extractLsb' 0 12).getLsbD k = r.getLsbD k
  rw [BitVec.getLsbD_append]
  by_cases h : k < 12
  · rw [if_pos h, BitVec.getLsbD_extractLsb', Nat.zero_add, decide_eq_true h, Bool.true_and]
  · have : k = 12 := by omega
    subst this
    cases r.getLsbD 12 <;> rfl

/-- The low three bits of an offset, as a number. -/
theorem extract_low3 (off : Offset) : off.extractLsb' 0 3 = 0#3 ↔ off.toNat % 8 = 0 := by
  rw [← BitVec.toNat_inj]
  simp

/-- The offset of a request, as a number. -/
theorem requestOff_toNat (r : Request) : (requestOff r).toNat = r.toNat % 4096 := by
  simp [requestOff]

theorem requestOff_low3 (r : Request) : (requestOff r).extractLsb' 0 3 = 0#3 ↔ r.toNat % 8 = 0 := by
  rw [extract_low3, requestOff_toNat]
  omega

/-- A command word is legal by its low four bits when its reserved field is 0 (R60, R63). -/
theorem command_eq_iff (w : Word) (k : BitVec 4) :
    w = k.setWidth 64 ↔ commandRsv w = 0#60 ∧ commandOpc w = k := by
  rw [← BitVec.toNat_inj, ← BitVec.toNat_inj, ← BitVec.toNat_inj]
  have := w.isLt
  have := k.isLt
  simp only [commandRsv, commandOpc, BitVec.extractLsb'_toNat, BitVec.toNat_setWidth, BitVec.toNat_ofNat, Nat.shiftRight_eq_div_pow]
  omega

end Sys2Proof
end

