-- ==== Sys2Proof/Laws/Parse.lean ====
section
/-! SUPPORT. The laws of the digit parser's datapath: the ROM, the digit test, the accumulation over any list of digit bytes,
the slice of a command and its admission. -/

namespace Sys2Proof.Machine

/-- Every entry of the ROM is its power of ten (10_state.md R30). -/
theorem rom_toNat {j : Nat} (h : j < 20) : (rom j).toNat = 10 ^ (19 - j) := by
  interval_cases j <;> rfl

/-- The digit test by the byte's own range (40_parse.md R78). -/
theorem isDigit_iff_digitByte (c : Byte) : isDigit c = true ↔ digitByte c := by
  have := c.isLt
  simp only [isDigit, digitByte, decide_eq_true_eq, BitVec.toNat_sub, BitVec.toNat_ofNat]
  omega

theorem digitValue_toNat {c : Byte} (h : digitByte c) : (digitValue c).toNat = c.toNat - 0x30 := by
  obtain ⟨h1, h2⟩ := h
  simp only [digitValue, BitVec.toNat_setWidth, BitVec.toNat_sub, BitVec.toNat_ofNat]
  omega

/-- The Horner value of a numeral, from a starting value. -/
theorem foldl_numeral (n : Nat) (bs : List Byte) :
    bs.foldl (fun n c => 10 * n + (c.toNat - 0x30)) n = n * 10 ^ bs.length + numeral bs := by
  induction bs generalizing n with
  | nil => simp [numeral]
  | cons c cs ih =>
    rw [numeral, List.foldl_cons, List.foldl_cons, ih, ih (10 * 0 + (c.toNat - 0x30)), List.length_cons, Nat.pow_succ]
    ring

theorem numeral_cons (c : Byte) (cs : List Byte) : numeral (c :: cs) = (c.toNat - 0x30) * 10 ^ cs.length + numeral cs := by
  rw [numeral, List.foldl_cons, foldl_numeral]
  simp

/-- A numeral of n digit bytes is below 10^n. -/
theorem numeral_lt {bs : List Byte} (h : ∀ c ∈ bs, digitByte c) : numeral bs < 10 ^ bs.length := by
  induction bs with
  | nil => simp [numeral]
  | cons c cs ih =>
    have hc := (h c (by simp)).2
    have := ih fun d hd => h d (by simp [hd])
    rw [numeral_cons, List.length_cons, Nat.pow_succ]
    have : (c.toNat - 48) * 10 ^ cs.length ≤ 9 * 10 ^ cs.length := Nat.mul_le_mul_right _ (by omega)
    omega

/-- The accumulation from index `i` on, where the last digit meets ROM entry 19 (R80 to R82). -/
theorem accumFrom_toNat {i : Nat} {bs : List Byte} (hi : i + bs.length = 20) (h : ∀ c ∈ bs, digitByte c) :
    (accumFrom i bs).toNat = numeral bs % 2 ^ 64 := by
  induction bs generalizing i with
  | nil => simp [accumFrom, numeral]
  | cons c cs ih =>
    rw [List.length_cons] at hi
    rw [accumFrom, BitVec.toNat_add, BitVec.toNat_mul, ih (by omega) fun d hd => h d (by simp [hd]),
      digitValue_toNat (h c (by simp)), rom_toNat (by omega), numeral_cons, show 19 - i = cs.length by omega,
      Nat.mod_add_mod, Nat.add_mod_mod]

/-- The four-at-a-time sequencing (R84) adds what the accumulation adds. -/
theorem accumGrouped_eq (i : Nat) (acc : Word) (bs : List Byte) : accumGrouped i acc bs = acc + accumFrom i bs := by
  induction i, acc, bs using accumGrouped.induct with
  | case1 i acc c0 c1 c2 c3 cs ih => rw [accumGrouped, ih]; simp [accumFrom]; ring
  | case2 i acc => simp [accumGrouped, accumFrom]
  | case3 i acc c cs h ih => rw [accumGrouped, ih]; simp [accumFrom]; ring; assumption

/-! ## The slice -/

theorem lencheck_none {l : Word} : lencheck l = none ↔ 1 ≤ l.toNat ∧ l.toNat ≤ 20 := by
  simp only [lencheck, lencheckWith, Config.foldEmpty, Config.maxLen]
  split_ifs <;> simp <;> omega

theorem sliceBytes_eq (s : State) (sl : Slice) : sliceBytes s.memory sl = sl.bytes s := by
  simp [sliceBytes, Slice.addresses, Slice.bytes, Slice.byte, Slice.address, Function.comp_def]

theorem admitsSlice_iff (s : State) (sl : Slice) : s.platform.admitsSlice sl = true ↔ sl.admitted s := by
  simp [Platform.admitsSlice, Slice.addresses, Slice.admitted, Slice.address]

theorem bytes_length (s : State) (sl : Slice) : (sl.bytes s).length = sl.length.toNat := by
  simp [Slice.bytes]

/-- Every byte of a slice is a digit byte exactly when the digit test passes on all of them. -/
theorem bytes_all_isDigit (s : State) (sl : Slice) :
    (sl.bytes s).all isDigit = true ↔ ∀ p, p < sl.length.toNat → digitByte (sl.byte s p) := by
  simp [Slice.bytes, isDigit_iff_digitByte]

/-- The parse commands are those with a slice: the command, its kind, and its slice form. -/
theorem commandSlice_cases {i : Instr} {f : Flight} {sl : Slice} (h : commandSlice i f = some sl) :
    (i = .parsecL ∧ sl = sliceOf .beginLength f.la0.value f.la1.value) ∨
    (i = .parsecE ∧ sl = sliceOf .beginEnd f.la0.value f.la1.value) ∨
    (i = .parseuL ∧ sl = sliceOf .beginLength f.la0.value f.la1.value) ∨
    (i = .parseuE ∧ sl = sliceOf .beginEnd f.la0.value f.la1.value) := by
  cases i <;> simp_all [commandSlice, sliceOf]

/-- The meaning of a parse command in flight is the one body, for its kind and slice form, in every state it is in flight in. -/
theorem exec_parse {i : Instr} {f : Flight} {sl : Slice} (h : commandSlice i f = some sl) :
    ∃ checked form, (∀ s, InFlight f s → exec i s = parseBody checked form f s) ∧
      sl = sliceOf form f.la0.value f.la1.value ∧ (checked = true ↔ i = .parsecL ∨ i = .parsecE) := by
  obtain ⟨rfl, rfl⟩ | ⟨rfl, rfl⟩ | ⟨rfl, rfl⟩ | ⟨rfl, rfl⟩ := commandSlice_cases h
  · exact ⟨true, .beginLength, fun _ hf => unitStep_eq hf, rfl, by simp⟩
  · exact ⟨true, .beginEnd, fun _ hf => unitStep_eq hf, rfl, by simp⟩
  · exact ⟨false, .beginLength, fun _ hf => unitStep_eq hf, rfl, by simp⟩
  · exact ⟨false, .beginEnd, fun _ hf => unitStep_eq hf, rfl, by simp⟩

end Sys2Proof.Machine
end

