-- ==== Sys2Proof/Laws/PerInstr.lean ====
section
/-! SUPPORT. The family RoundTrip: a well-formed instruction is what the decoder reads from its encoding, one lemma per constructor. -/

namespace Sys2Proof.Laws.RoundTrip

open Sys2Proof

def Statement (i : Instr) : Prop := i.wellFormed = true → decode (encode i) = i

theorem clz64 : Statement .clz64 := fun _ => by decide
theorem parseuL : Statement .parseuL := fun _ => by decide
theorem parseuE : Statement .parseuE := fun _ => by decide
theorem parsecL : Statement .parsecL := fun _ => by decide
theorem parsecE : Statement .parsecE := fun _ => by decide

theorem illegal (word : Word) : Statement (.illegal word) := by
  intro h
  simp only [Instr.wellFormed, legalCommandWords, List.contains_cons, List.contains_nil, Bool.not_eq_true',
    Bool.or_eq_false_iff, beq_eq_false_iff_ne, ne_eq, Bool.or_false] at h
  obtain ⟨h4, h8, h9, hA, hB⟩ := h
  simp only [encode, decode, decodeCommand]
  split_ifs with h0 h1 h2 h3 h5 h6
  · rfl
  · exact absurd ((command_eq_iff word 0x4#4).2 ⟨not_not.1 h0, h1⟩) h4
  · exact absurd ((command_eq_iff word 0x8#4).2 ⟨not_not.1 h0, h2⟩) h8
  · exact absurd ((command_eq_iff word 0x9#4).2 ⟨not_not.1 h0, h3⟩) h9
  · exact absurd ((command_eq_iff word 0xA#4).2 ⟨not_not.1 h0, h5⟩) hA
  · exact absurd ((command_eq_iff word 0xB#4).2 ⟨not_not.1 h0, h6⟩) hB
  · rfl

/-- A supported write at an aligned offset decodes by the write rows. -/
theorem decode_writeAccess {off : Offset} (h : off.toNat % 8 = 0) (data : Word) :
    decode (writeAccess off data) = decodeWrite off data := by
  simp [decode, writeAccess, decodeBus, extract_low3, h]

/-- A supported read at an aligned offset decodes by the read rows. -/
theorem decode_readAccess {off : Offset} (h : off.toNat % 8 = 0) : decode (readAccess off) = decodeRead off := by
  simp [decode, readAccess, decodeBus, extract_low3, h]

theorem wrArg0 (data : Word) : Statement (.wrArg0 data) := fun _ => decode_writeAccess (by decide) data
theorem rdArg0 : Statement .rdArg0 := fun _ => decode_readAccess (by decide)
theorem wrArg1 (data : Word) : Statement (.wrArg1 data) := fun _ => decode_writeAccess (by decide) data
theorem rdArg1 : Statement .rdArg1 := fun _ => decode_readAccess (by decide)
theorem wrCmd (word : Word) : Statement (.wrCmd word) := fun _ => decode_writeAccess (by decide) word
theorem rdCmd : Statement .rdCmd := fun _ => decode_readAccess (by decide)
theorem wrResult (data : Word) : Statement (.wrResult data) := fun _ => decode_writeAccess (by decide) data
theorem rdResult : Statement .rdResult := fun _ => decode_readAccess (by decide)
theorem wrStatus (data : Word) : Statement (.wrStatus data) := fun _ => decode_writeAccess (by decide) data
theorem rdStatus : Statement .rdStatus := fun _ => decode_readAccess (by decide)
theorem wrId (data : Word) : Statement (.wrId data) := fun _ => decode_writeAccess (by decide) data
theorem rdId : Statement .rdId := fun _ => decode_readAccess (by decide)

/-- A reserved offset is aligned and none of the six named ones (10_state.md R28). -/
theorem reserved_ne {off k : Offset} (h : 0x030 ≤ off.toNat) (hk : k.toNat < 0x030) : off ≠ k := by
  rintro rfl
  omega

theorem wrRsvd (off : Offset) (data : Word) : Statement (.wrRsvd off data) := by
  intro h
  simp only [Instr.wellFormed, isReservedOffset, Bool.and_eq_true, decide_eq_true_eq] at h
  have ne : ∀ k : Offset, k.toNat < 0x030 → off ≠ k := fun k hk => reserved_ne h.1 hk
  rw [encode, decode_writeAccess h.2, decodeWrite]
  rw [if_neg (ne _ (by decide)), if_neg (ne _ (by decide)), if_neg (ne _ (by decide)), if_neg (ne _ (by decide)),
    if_neg (ne _ (by decide)), if_neg (ne _ (by decide))]

theorem rdRsvd (off : Offset) : Statement (.rdRsvd off) := by
  intro h
  simp only [Instr.wellFormed, isReservedOffset, Bool.and_eq_true, decide_eq_true_eq] at h
  have ne : ∀ k : Offset, k.toNat < 0x030 → off ≠ k := fun k hk => reserved_ne h.1 hk
  rw [encode, decode_readAccess h.2, decodeRead]
  rw [if_neg (ne _ (by decide)), if_neg (ne _ (by decide)), if_neg (ne _ (by decide)), if_neg (ne _ (by decide)),
    if_neg (ne _ (by decide)), if_neg (ne _ (by decide))]

theorem refusedAccess (width : Nat) (request : Request) : Statement (.refusedAccess width request) := by
  intro h
  simp only [Instr.wellFormed, isUnsupported, Bool.or_eq_true, decide_eq_true_eq] at h
  simp only [encode, decode, decodeBus, ne_eq, requestOff_low3]
  by_cases hw : width = 64
  · rw [if_neg (by simpa using hw), if_pos (by simpa [hw] using h)]
  · rw [if_pos hw]

end Sys2Proof.Laws.RoundTrip
end

