-- ==== Sys2Proof/Laws/Step.lean ====
section
/-! SUPPORT. What a step of the machine can do, said once: the turn it takes, and what that turn's agent does. -/

namespace Sys2Proof.Machine

/-- A byte access of the Host in the register window sets the refusal mark; elsewhere it is the access to its memory. -/
theorem byteAccess_eq (we : Bool) (a : Word) (otherwise : State → Result) (s : State) :
    byteAccess we a otherwise s = if s.platform.window.contains a then .next s.markRefused else otherwise s := by
  have h : ∀ r d, decodeBus 8 r d = .refusedAccess 8 r := fun r d => by simp [decodeBus]
  rw [byteAccess, h]
  rfl

/-- A read line binds the value read to its variable, unless the read was refused: then the access is all it does. -/
theorem bindRead_next {x : Var} {r : Result} {t : State} (h : bindRead x r = .next t) :
    ∃ u, r = .next u ∧ (u.refusalMark = true ∧ t = u ∨ u.refusalMark = false ∧ t = u.setVar x u.readData) := by
  cases r with
  | next u =>
    refine ⟨u, rfl, ?_⟩
    simp only [bindRead] at h
    split at h
    · rename_i hu; cases h; exact .inl ⟨hu, rfl⟩
    · rename_i hu; cases h; exact .inr ⟨by simpa using hu, rfl⟩
  | fault _ => cases h
  | refused _ => cases h

/-- What a Host line can do: one access of the window (after which a read that is not refused binds its variable), or a change of the Host's own
variables, lines or memory. -/
theorem hostLine_next {line : HostLine} {s t : State} (h : hostLine line s = .next t) :
    (∃ i, isCommand i = false ∧
      (exec i s = .next t ∨ ∃ x u, exec i s = .next u ∧ t = u.setVar x u.readData)) ∨
    (∃ x v, t = s.setVar x v) ∨ t = s ∨ (∃ lines, t = s.setRest lines) ∨ ∃ a b, t = s.hostWrite a b := by
  have refuse : ∀ u, (.next s.markRefused : Result) = .next u →
      ∃ i, isCommand i = false ∧ (exec i s = .next u ∨ ∃ x v, exec i s = .next v ∧ u = v.setVar x v.readData) :=
    fun u hu => ⟨.refusedAccess 8 0#13, rfl, .inl hu⟩
  cases line with
  | wr reg e => exact .inl ⟨_, isCommand_decodeBus _ _ _, .inl h⟩
  | access width request data => exact .inl ⟨_, isCommand_decodeBus _ _ _, .inl h⟩
  | rd reg x =>
    change bindRead x (exec (decodeBus 64 (requestWord false reg.offset) 0#64) s) = .next t at h
    obtain ⟨u, hu, ⟨-, rfl⟩ | ⟨-, rfl⟩⟩ := bindRead_next h
    · exact .inl ⟨_, isCommand_decodeBus _ _ _, .inl hu⟩
    · exact .inl ⟨_, isCommand_decodeBus _ _ _, .inr ⟨x, u, hu, rfl⟩⟩
  | set x e => cases h; exact .inr (.inl ⟨_, _, rfl⟩)
  | label l => cases h; exact .inr (.inr (.inl rfl))
  | ifGoto c l =>
    simp only [hostLine] at h
    split at h
    · split at h <;> cases h
      exact .inr (.inr (.inr (.inl ⟨_, rfl⟩)))
    · cases h; exact .inr (.inr (.inl rfl))
  | store a v =>
    simp only [hostLine, byteAccess_eq] at h
    split at h
    · exact .inl (refuse t h)
    · cases h; exact .inr (.inr (.inr (.inr ⟨_, _, rfl⟩)))
  | load a x =>
    simp only [hostLine, byteAccess_eq] at h
    split at h
    · exact .inl (refuse t h)
    · cases h; exact .inr (.inl ⟨_, _, rfl⟩)

/-- The Host's turn runs its next line. -/
theorem step_host {s : State} {ts : List Turn} {line : HostLine} {lines : List HostLine} (hm : s.refusalMark = false)
    (ht : s.turns = .host :: ts) (hr : s.host.rest = line :: lines) :
    step s = hostLine line (State.setRest lines { s with turns := ts }) := by
  simp only [step, nextStep, ht, hostTurn, hr]
  rw [if_neg (by simp [hm])]

/-- The Unit's turn runs the completion of the command in flight. -/
theorem step_unit {s : State} {ts : List Turn} {f : Flight} (hm : s.refusalMark = false) (ht : s.turns = .unit :: ts)
    (hf : s.flight = some f) : step s = exec (decodeCommand f.lop) { s with turns := ts } := by
  simp only [step, nextStep, ht, unitTurn, hf]
  rw [if_neg (by simp [hm])]

theorem unitTurn_next {s t : State} (h : unitTurn s = .next t) :
    t = s ∨ ∃ f, s.flight = some f ∧ exec (decodeCommand f.lop) s = .next t := by
  unfold unitTurn at h
  split at h
  · cases h
  · split at h
    · cases h; exact .inl rfl
    · rename_i f hf; exact .inr ⟨f, hf, h⟩

theorem hostTurn_next {s t : State} (h : hostTurn s = .next t) :
    t = s ∨ ∃ line lines, s.host.rest = line :: lines ∧ hostLine line (s.setRest lines) = .next t := by
  unfold hostTurn at h
  split at h
  · cases h
  · split at h
    · cases h; exact .inl rfl
    · rename_i line lines hr; exact .inr ⟨line, lines, hr, h⟩

/-- What a step can do when it answers a next state: with the turn taken off, a reset, nothing (a turn that passes), the
completion of the command in flight, or a Host line. -/
theorem step_next {s t : State} (h : step s = .next t) :
    ∃ ts, (s.turns = .reset :: ts ∧ t = State.resetBlock { s with turns := ts }) ∨ t = { s with turns := ts } ∨
      (∃ f, s.flight = some f ∧ exec (decodeCommand f.lop) { s with turns := ts } = .next t) ∨
      ∃ line lines, s.host.rest = line :: lines ∧
        hostLine line (State.setRest lines { s with turns := ts }) = .next t := by
  have unit : ∀ ts, unitTurn { s with turns := ts } = .next t → t = { s with turns := ts } ∨
      ∃ f, s.flight = some f ∧ exec (decodeCommand f.lop) { s with turns := ts } = .next t := fun ts h => unitTurn_next h
  have host : ∀ ts, hostTurn { s with turns := ts } = .next t → t = { s with turns := ts } ∨
      ∃ line lines, s.host.rest = line :: lines ∧
        hostLine line (State.setRest lines { s with turns := ts }) = .next t := fun ts h => hostTurn_next h
  simp only [step, nextStep] at h
  split at h
  · rename_i ts _
    obtain h | h := host ts h
    · exact ⟨ts, .inr (.inl h)⟩
    · exact ⟨ts, .inr (.inr (.inr h))⟩
  · rename_i ts _
    obtain h | h := unit ts h
    · exact ⟨ts, .inr (.inl h)⟩
    · exact ⟨ts, .inr (.inr (.inl h))⟩
  · rename_i ts hts
    cases h
    exact ⟨ts, .inl ⟨hts, rfl⟩⟩
  · rename_i ht
    have hs : { s with turns := [] } = s := by rw [← ht]
    split at h
    · obtain h | h := unit [] (hs.symm ▸ h)
      · exact ⟨[], .inr (.inl h)⟩
      · exact ⟨[], .inr (.inr (.inl h))⟩
    · obtain h | h := host [] (hs.symm ▸ h)
      · exact ⟨[], .inr (.inl h)⟩
      · exact ⟨[], .inr (.inr (.inr h))⟩

end Sys2Proof.Machine
end

