-- ==== Sys2Proof/Tests/Slice0.lean ====
section
/-! SUPPORT. Tests: words written out from the spec's encodings, the spec's own vectors (spec/95_test_vectors.md), the checks of
WellFormed, and for each statement with hypotheses a concrete witness that meets them. -/

namespace Sys2Proof.Tests

open Sys2Proof Sys2Proof.Machine

/-! ## Helpers -/

/-- ASCII digits. -/
def digits (ds : List Nat) : List Byte := ds.map fun d => BitVec.ofNat 8 (0x30 + d)

/-- The bytes "1a23". -/
def text1a23 : List Byte := [0x31#8, 0x61#8, 0x32#8, 0x33#8]

/-- After reset, with these bytes at 0x1000. -/
def withText (bs : List Byte) : State := { State.reset with memory := writeBytes [] 0x1000#64 bs }

/-- A command in flight with both operands written. -/
def flying (w a0 a1 : Word) (s : State) : State := { s with flight := some ⟨w, .written a0, .written a1, false⟩ }

/-- The latches `flying` puts in flight. -/
def latches (w a0 a1 : Word) : Flight := ⟨w, .written a0, .written a1, false⟩

/-- The same with the first operand unwritten. -/
def noOperand (w : Word) : State := { State.reset with flight := some ⟨w, .atReset, .written 5#64, false⟩ }

/-- STATUS and RESULT after a next state. -/
def seen (r : Result) : Option (Word × Word) :=
  match r with
  | .next s => some (s.statusWord, s.result.value)
  | .fault _ => none
  | .refused _ => none

/-- The value read by a Host read. -/
def readOf (r : Result) : Option Word :=
  match r with
  | .next s => some s.readData
  | .fault _ => none
  | .refused _ => none

/-- A turn of the Host with one line to run. -/
def hostAt (line : HostLine) (s : State) : State := { s with turns := [.host], host := { s.host with rest := [line] } }

/-- The outcome is exactly this next state. -/
def answers (r : Result) (t : State) : Bool :=
  match r with
  | .next s => decide (s = t)
  | .fault _ => false
  | .refused _ => false

/-! ## Decoding words written out from R61 and R69 -/

theorem test_decode_clz64 : decodeTableWord 64 0x0000000000000004 = some .clz64 := by decide
theorem test_decode_parseuL : decodeTableWord 64 0x0000000000000008 = some .parseuL := by decide
theorem test_decode_parseuE : decodeTableWord 64 0x0000000000000009 = some .parseuE := by decide
theorem test_decode_parsecL : decodeTableWord 64 0x000000000000000A = some .parsecL := by decide
theorem test_decode_parsecE : decodeTableWord 64 0x000000000000000B = some .parsecE := by decide
theorem test_decode_illegal : decodeTableWord 64 0x14 = some (.illegal 0x14#64) := by decide
theorem test_decode_illegal_clz_end : decodeTableWord 64 0x5 = some (.illegal 0x5#64) := by decide
theorem test_decode_wrArg0 : decode (.bus 64 0b1000000000000#13 9#64) = .wrArg0 9#64 := by decide
theorem test_decode_rdArg0 : decodeTableWord 16 0x0000 = some .rdArg0 := by decide
theorem test_decode_wrArg1 : decodeTableWord 16 0x1008 = some (.wrArg1 0#64) := by decide
theorem test_decode_rdArg1 : decodeTableWord 16 0x0008 = some .rdArg1 := by decide
theorem test_decode_wrCmd : decode (.bus 64 0x1010#13 0xA#64) = .wrCmd 0xA#64 := by decide
theorem test_decode_rdCmd : decodeTableWord 16 0x0010 = some .rdCmd := by decide
theorem test_decode_wrResult : decodeTableWord 16 0x1018 = some (.wrResult 0#64) := by decide
theorem test_decode_rdResult : decodeTableWord 16 0x0018 = some .rdResult := by decide
theorem test_decode_wrStatus : decodeTableWord 16 0x1020 = some (.wrStatus 0#64) := by decide
theorem test_decode_rdStatus : decodeTableWord 16 0x0020 = some .rdStatus := by decide
theorem test_decode_wrId : decodeTableWord 16 0x1028 = some (.wrId 0#64) := by decide
theorem test_decode_rdId : decodeTableWord 16 0x0028 = some .rdId := by decide
theorem test_decode_wrRsvd : decodeTableWord 16 0x1FF8 = some (.wrRsvd 0xFF8#12 0#64) := by decide
theorem test_decode_rdRsvd : decodeTableWord 16 0x0030 = some (.rdRsvd 0x030#12) := by decide
theorem test_decode_misaligned : decodeTableWord 16 0x0004 = some (.refusedAccess 64 0x0004#13) := by decide
theorem test_decode_32_bits : decode (.bus 32 0x0020#13 0#64) = .refusedAccess 32 0x0020#13 := by decide
theorem test_decode_with_data : decodeTableWord 80 0x51008 = some (.wrArg1 5#64) := by decide
theorem test_reject_request_bits : decodeTableWord 16 0x2000 = none := by decide

/-- The expansion of POLL is three lines (R72), and a CALL is a well-formed Host program (R73). -/
theorem test_call_well_formed : wellFormedProgram (callParse .parsecL 0 (.const 0x1000#64) (.const 5#64) 1 2) = true := by decide
theorem test_call_clz_lines : (callClz 0 (.const 7#64) 1 2).take 2 = [.wr .arg0 (.const 7#64), .wr .cmd (.const 4#64)] := by decide

/-! ## WellFormed refuses each ill-formed field -/

theorem test_illformed_illegal : Instr.wellFormed (.illegal 0xB#64) = false := by decide
theorem test_illformed_wrRsvd_named : Instr.wellFormed (.wrRsvd 0x028#12 0#64) = false := by decide
theorem test_illformed_wrRsvd_misaligned : Instr.wellFormed (.wrRsvd 0x034#12 0#64) = false := by decide
theorem test_illformed_rdRsvd : Instr.wellFormed (.rdRsvd 0x000#12) = false := by decide
theorem test_illformed_refused : Instr.wellFormed (.refusedAccess 64 0x1010#13) = false := by decide
theorem test_illformed_program : wellFormedProgram [.ifGoto (.eq (.const 0#64) (.const 0#64)) (.named 1)] = false := by decide

/-! ## The vectors of 95_test_vectors.md -/

/-- Row P3. -/
theorem test_parsecL_12345 : seen (exec .parsecL (flying 0xA#64 0x1000#64 5#64 (withText (digits [1, 2, 3, 4, 5])))) =
    some (0x2#64, 12345#64) := by decide
/-- Row P9: u64::MAX, 20 digits. -/
theorem test_parsecL_max : seen (exec .parsecL (flying 0xA#64 0x1000#64 20#64
    (withText (digits [1, 8, 4, 4, 6, 7, 4, 4, 0, 7, 3, 7, 0, 9, 5, 5, 1, 6, 1, 5])))) =
    some (0x2#64, 0xFFFF_FFFF_FFFF_FFFF#64) := by decide
/-- Row P13: the sum wraps. -/
theorem test_parseuL_wraps : seen (exec .parseuL (flying 0x8#64 0x1000#64 20#64 (withText (digits (List.replicate 20 9))))) =
    some (0x2#64, 7766279631452241919#64) := by decide
/-- Row E5: "1a23" by its end. -/
theorem test_parsecE_invalid : seen (exec .parsecE (flying 0xB#64 0x1000#64 0x1004#64 (withText text1a23))) =
    some (0x10#64, 0#64) := by decide
/-- Row E6: a slice that wraps past 2^64 - 1. -/
theorem test_parsecE_wrapping_slice : seen (exec .parsecE (flying 0xB#64 0xFFFF_FFFF_FFFF_FFFE#64 3#64
    { State.reset with memory := writeBytes [] 0xFFFF_FFFF_FFFF_FFFE#64 (digits [9, 8, 7, 6, 5]) })) =
    some (0x2#64, 98765#64) := by decide
/-- Row E3: E = B - 1. -/
theorem test_parsecE_end_before_begin : seen (exec .parsecE (flying 0xB#64 0x1000#64 0x0FFF#64 State.reset)) =
    some (0x20#64, 0#64) := by decide
/-- Row U6. -/
theorem test_parseuE_4294967296 : seen (exec .parseuE (flying 0x9#64 0x1000#64 0x100A#64
    (withText (digits [4, 2, 9, 4, 9, 6, 7, 2, 9, 6])))) = some (0x2#64, 0x1_0000_0000#64) := by decide
/-- Row U4: length 0. -/
theorem test_parseuL_empty : seen (exec .parseuL (flying 0x8#64 0x1000#64 0#64 State.reset)) = some (0x30#64, 0#64) := by decide
/-- Rows C1 and C9. -/
theorem test_clz_zero : seen (exec .clz64 (flying 0x4#64 0#64 0#64 State.reset)) = some (0x2#64, 64#64) := by decide
theorem test_clz_two_to_32 : seen (exec .clz64 (flying 0x4#64 0x0000_0001_0000_0000#64 0#64 State.reset)) = some (0x2#64, 31#64) := by
  decide
/-- Row L5: an illegal word completes although no operand was written. -/
theorem test_illegal_unwritten : seen (exec (.illegal 0#64) (State.reset.accept 0#64)) = some (0x40#64, 0#64) := by decide
/-- Row L6: CLZ64 with ARG0 unwritten. -/
theorem test_clz_unwritten : answers (exec .clz64 (noOperand 0x4#64))
    { noOperand 0x4#64 with faultRecord := some .unwrittenOperand } = true := by decide
/-- Rows L9 and L10: STATUS after an accept, and after a drop. -/
theorem test_status_after_accept : readOf (exec .rdStatus (State.reset.accept 0x4#64)) = some 0x1#64 := by decide
theorem test_status_after_drop : readOf (exec .rdStatus (State.reset.accept 0x4#64).dropCommand) = some 0x5#64 := by decide
/-- Row L14. -/
theorem test_rdId : readOf (exec .rdId State.reset) = some 0x4342_434F_5245_0001#64 := by decide
/-- Row L11: the command in flight uses the latched LA0. -/
theorem test_latched_operand : seen (exec .clz64 ((flying 0x4#64 1#64 0#64 State.reset).setArg0 0#64)) = some (0x2#64, 63#64) := by
  decide
/-- Row L17: a Host write into the slice in flight sets TAINT, and one beside it does not. -/
theorem test_taint_in_slice : ((flying 0xA#64 0x1000#64 5#64 State.reset).hostWrite 0x1004#64 0#8).taint = true := by decide
theorem test_no_taint_beside_slice : ((flying 0xA#64 0x1000#64 5#64 State.reset).hostWrite 0x1005#64 0#8).taint = false := by decide
/-- Section 2.1: the bytes at the edges of the digit test. -/
theorem test_digit_edges : [0x2F#8, 0x30#8, 0x39#8, 0x3A#8].map isDigit = [false, true, true, false] := by decide
/-- Section 2.2: ROM[0] is 10^19 and ROM[19] is 1. -/
theorem test_rom_edges : rom 0 = 10000000000000000000#64 ∧ rom 19 = 1#64 := by decide

/-! ## A placed word runs at once -/

theorem test_placed_request_runs : readOf (step (State.reset.withFetchWord 16 0x0028)) = some 0x4342_434F_5245_0001#64 := by decide
theorem test_placed_illegal_runs : seen (step (State.reset.withFetchWord 64 0xC)) = some (0x40#64, 0#64) := by decide

/-- R46 gives a refused read no step: the variable of its line keeps what it held. -/
theorem test_refused_read_binds_nothing :
    (match step (hostAt (.rd (.rsvd 0x034#12) 3) (State.reset.setReadData 7#64)) with
     | .next t => decide (t.host.vars = [] ∧ t.refusalMark = true ∧ t.readData = 7#64)
     | .fault _ => false
     | .refused _ => false) = true := by decide

/-- R55: a store line at the last byte of the slice in flight taints the command; one past it does not. -/
theorem test_store_line_taints :
    [0x1004#64, 0x1005#64].map (fun a =>
      match step (hostAt (.store (.const a) (.const 0#64)) (flying 0xA#64 0x1000#64 5#64 State.reset)) with
      | .next t => some t.taint
      | .fault _ => none
      | .refused _ => none) = [some true, some false] := by decide
/-- R12, R130: a load line reads the byte at its address, here the '2' of "12" at 0x1000. -/
theorem test_load_line_reads_its_byte :
    (match step (hostAt (.load (.const 0x1001#64) 3) (withText (digits [1, 2]))) with
     | .next t => some (readVar t.host.vars 3)
     | .fault _ => none
     | .refused _ => none) = some 0x32#64 := by decide

/-! ## Witnesses: for each statement with hypotheses, a state and operands that meet them all -/

/-- A parse of "12345" in flight, and its slice. -/
def parsing (w a1 : Word) (bs : List Byte) : State := flying w 0x1000#64 a1 (withText bs)

/-- Every platform read is answered but those of this region. -/
def unanswering (r : Region) (s : State) : State := { s with platform := { s.platform with unanswered := [r] } }

/-- The slice of bytes at 0x1000. -/
def sliceAt1000 (n : Word) : Slice := ⟨0x1000#64, n⟩

theorem witness_DecodeOfEncodeIsIdentity :
    Instr.wellFormed (.wrRsvd 0xFF8#12 7#64) = true ∧ Instr.wellFormed (.rdRsvd 0x030#12) = true ∧
    Instr.wellFormed (.illegal 0x7#64) = true ∧ Instr.wellFormed (.refusedAccess 32 0x1000#13) = true := by decide
theorem witness_BusRequestHasOneMeaning : (0x1FF8#13).toNat % 8 = 0 ∧ (0x1FF8#13).getLsbD 12 = true := by decide
theorem witness_LegalCommandWords : (0xC#64 : Word) ≠ 0x4#64 ∧ (0xC#64 : Word) ≠ 0x8#64 ∧ (0xC#64 : Word) ≠ 0x9#64 ∧
    (0xC#64 : Word) ≠ 0xA#64 ∧ (0xC#64 : Word) ≠ 0xB#64 := by decide
theorem witness_IllegalCommandWords : State.reset.busy = false ∧
    InFlight (latches 0x7#64 0#64 0#64) (flying 0x7#64 0#64 0#64 State.reset) := by decide
theorem witness_BusRequestsDecodeByTable : 0x030 ≤ (0x030#12).toNat ∧ (0x030#12).toNat % 8 = 0 ∧ 0x030 ≤ (0xFF8#12).toNat ∧
    (0xFF8#12).toNat % 8 = 0 ∧ (0x1001#13).toNat % 8 ≠ 0 ∧ (0x0FFF#13).toNat % 8 ≠ 0 := by decide

/-- The Unit's turn with CLZ64 of 1 in flight. -/
def unitAt (s : State) : State := { s with turns := [.unit] }

theorem witness_UnitTurn : (unitAt (flying 0x4#64 1#64 0#64 State.reset)).flight = some (latches 0x4#64 1#64 0#64) ∧
    (unitAt (flying 0x4#64 1#64 0#64 State.reset)).refusalMark = false ∧
    (unitAt (flying 0x4#64 1#64 0#64 State.reset)).turns = [.unit] := by decide
theorem witness_HostTurn :
    (hostAt (.rd .id 3) State.reset).refusalMark = false ∧ (hostAt (.rd .id 3) State.reset).turns = [.host] ∧
    (hostAt (.rd .id 3) State.reset).host.rest = [.rd .id 3] ∧
    (hostAt (.wr .arg0 (.const 1#64)) State.reset).host.rest = [.wr .arg0 (.const 1#64)] ∧
    (hostAt (.access 64 0#13 0#64) State.reset).host.rest = [.access 64 0#13 0#64] ∧
    isNext (exec (decodeBus 64 (0#1 ++ WindowReg.offset .id) 0#64) State.reset) = true ∧
    (WindowReg.offset .id).toNat % 8 = 0 ∧ (WindowReg.offset (.rsvd 0xFF8#12)).toNat % 8 = 0 ∧
    (hostAt (.rd (.rsvd 0x034#12) 3) State.reset).host.rest = [.rd (.rsvd 0x034#12) 3] ∧
    (WindowReg.offset (.rsvd 0x034#12)).toNat % 8 ≠ 0 ∧ (WindowReg.offset (.rsvd 0xFFF#12)).toNat % 8 ≠ 0 := by decide
theorem witness_HostComputation :
    isNext (step (hostAt (.set 1 (.const 2#64)) State.reset)) = true ∧ isNext (step (hostAt (.label (.named 0)) State.reset)) = true ∧
    isNext (step (hostAt (.ifGoto (.eq (.const 0#64) (.const 1#64)) (.named 0)) State.reset)) = true ∧
    isNext (step { hostAt (.ifGoto (.eq (.const 0#64) (.const 0#64)) (.named 0)) State.reset with
      host := ⟨[.label (.named 0)], [.ifGoto (.eq (.const 0#64) (.const 0#64)) (.named 0)], []⟩ }) = true := by decide
theorem witness_Reset : ({ flying 0x4#64 1#64 0#64 State.reset with turns := [.reset] } : State).turns = [.reset] ∧
    ({ flying 0x4#64 1#64 0#64 State.reset with turns := [.reset] } : State).flight = some (latches 0x4#64 1#64 0#64) := by decide
theorem witness_FinishedRun : State.reset.finished = true ∧ State.reset.turns = [] ∧
    (flying 0x4#64 1#64 0#64 State.reset).busy = true ∧ State.reset.markRefused.refusalMark = true ∧
    (State.reset.recordFault .unwrittenRegister).faultRecord ≠ none ∧ (State.reset.setRest [.label (.named 0)]).host.rest ≠ [] := by
  decide
theorem witness_AcceptAndDrop : State.reset.busy = false ∧ (State.reset.accept 0x4#64).busy = true := by decide
theorem witness_BusyChanges : answers (exec (.wrCmd 0x4#64) State.reset) (State.reset.accept 0x4#64) = true ∧
    (State.reset.accept 0x4#64).busy = true ∧ State.reset.busy = false ∧
    answers (exec (.illegal 0#64) (State.reset.accept 0#64)) ((State.reset.accept 0#64).complete (.error .illegalCommand)) = true ∧
    ((State.reset.accept 0#64).complete (.error .illegalCommand)).busy = false := by decide
theorem witness_OnlyAcceptClears :
    answers (exec (.wrCmd 0x4#64) { State.reset with drop := true, err := 4#4 }) (State.reset.accept 0x4#64) = true ∧
    (State.reset.accept 0x4#64).drop = false ∧ (State.reset.accept 0x4#64).err ≠ 4#4 := by decide
theorem witness_OperandWrites : isCommand .clz64 = true ∧ isNext (exec .clz64 (flying 0x4#64 1#64 0#64 State.reset)) = true := by
  decide
theorem witness_ReadyCommand :
    InFlight (latches 0xA#64 0x1000#64 5#64) (unitAt (parsing 0xA#64 5#64 (digits [1, 2, 3, 4, 5]))) ∧
    (unitAt (parsing 0xA#64 5#64 (digits [1, 2, 3, 4, 5]))).refusalMark = false ∧
    commandSlice (decodeCommand 0xA#64) (latches 0xA#64 0x1000#64 5#64) = some (sliceAt1000 5#64) ∧
    (sliceAt1000 5#64).admitted (unitAt (parsing 0xA#64 5#64 (digits [1, 2, 3, 4, 5]))) := by decide
theorem witness_Clz : InFlight (latches 0x4#64 0x8000_0000_0000_0000#64 0#64)
      (flying 0x4#64 0x8000_0000_0000_0000#64 0#64 State.reset) ∧
    (0x8000_0000_0000_0000#64 : Word) ≠ 0#64 ∧ (0x8000_0000_0000_0000#64 : Word).getLsbD 63 = true ∧
    (0x8000_0000_0000_0000#64 : Word).extractLsb' 32 32 ≠ 0#32 ∧ (0xFFFF_FFFF#64 : Word).extractLsb' 32 32 = 0#32 ∧
    isNext (exec .clz64 (flying 0x4#64 0x8000_0000_0000_0000#64 0#64 State.reset)) = true ∧
    isNext (exec .clz64 (flying 0x4#64 0xFFFF_FFFF#64 0#64 State.reset)) = true ∧
    InFlight (latches 0x4#64 0#64 0#64) (flying 0x4#64 0#64 0#64 State.reset) := by decide
theorem witness_ClzPrimitive : (1#32 : BitVec 32) ≠ 0#32 ∧ (0x8000_0000#32 : BitVec 32) ≠ 0#32 ∧ msb 1#32 < 1 := by decide
theorem witness_DigitTest : isDigit 0x30#8 = true ∧ isDigit 0x39#8 = true ∧ isDigit 0x2F#8 = false ∧ isDigit 0x3A#8 = false := by decide
theorem witness_ParseOfDigits :
    ParseInFlight .parsecL (latches 0xA#64 0x1000#64 5#64) (sliceAt1000 5#64) (parsing 0xA#64 5#64 (digits [1, 2, 3, 4, 5])) ∧
    ParseInFlight .parseuE (latches 0x9#64 0x1000#64 0x1005#64) (sliceAt1000 5#64)
      (parsing 0x9#64 0x1005#64 (digits [1, 2, 3, 4, 5])) ∧
    (sliceAt1000 5#64).lengthOk ∧ (sliceAt1000 1#64).lengthOk ∧ (sliceAt1000 20#64).lengthOk ∧
    (sliceAt1000 5#64).admitted (parsing 0xA#64 5#64 (digits [1, 2, 3, 4, 5])) ∧
    ∀ p, p < 5 → digitByte ((sliceAt1000 5#64).byte (parsing 0xA#64 5#64 (digits [1, 2, 3, 4, 5])) p) := by decide
theorem witness_Rom : 1 ≤ 20 ∧ 19 < 20 ∧ romIndex 20 19 = 19 ∧ romIndex 20 0 = 0 ∧ romIndex 1 0 = 19 := by decide
theorem witness_Accumulation : (digits (List.replicate 20 9)).length = 20 ∧ (∀ c ∈ digits (List.replicate 20 9), digitByte c) ∧
    (digits [7]).length = 1 ∧ numeral (digits [7]) ≤ 2 ^ 64 - 1 := by decide
theorem witness_LeadingZeros : 1 ≤ (digits [1]).length ∧ 19 + (digits [1]).length ≤ 20 ∧ ∀ c ∈ digits [1], digitByte c := by decide
theorem witness_InvalidDigit :
    ParseInFlight .parsecL (latches 0xA#64 0x1000#64 4#64) (sliceAt1000 4#64) (parsing 0xA#64 4#64 text1a23) ∧
    ParseInFlight .parseuL (latches 0x8#64 0x1000#64 4#64) (sliceAt1000 4#64) (parsing 0x8#64 4#64 text1a23) ∧
    (sliceAt1000 4#64).lengthOk ∧ (sliceAt1000 4#64).admitted (parsing 0xA#64 4#64 text1a23) ∧
    ¬ digitByte ((sliceAt1000 4#64).byte (parsing 0xA#64 4#64 text1a23) 1) := by decide
/-- An unchecked parse that runs, for the clause that it never completes with INVALID_DIGIT: a length error. -/
theorem witness_UncheckedNext : answers (exec .parseuE (flying 0x9#64 0x1000#64 0x1000#64 State.reset))
    ((flying 0x9#64 0x1000#64 0x1000#64 State.reset).complete (.error .emptyInput)) = true := by decide
theorem witness_LengthErrors :
    ParseInFlight .parsecE (latches 0xB#64 0x1000#64 0x1000#64) (sliceAt1000 0#64) (parsing 0xB#64 0x1000#64 []) ∧
    (sliceAt1000 0#64).length.toNat = 0 ∧
    ParseInFlight .parseuL (latches 0x8#64 0x1000#64 21#64) (sliceAt1000 21#64) (parsing 0x8#64 21#64 []) ∧
    20 < (sliceAt1000 21#64).length.toNat ∧ 20 < (sliceAt1000 0xFFFF_FFFF_FFFF_FFFF#64).length.toNat := by decide
theorem witness_Unadmitted :
    ParseInFlight .parsecL (latches 0xA#64 0x1000#64 5#64) (sliceAt1000 5#64)
      (unanswering ⟨0x1004#64, 1⟩ (parsing 0xA#64 5#64 text1a23)) ∧
    (unanswering ⟨0x1004#64, 1⟩ (parsing 0xA#64 5#64 text1a23)).platform.admits (0x1000#64 + BitVec.ofNat 64 4) = false := by decide
theorem witness_UnwrittenOperand :
    InFlight ⟨0x4#64, .atReset, .written 5#64, false⟩ (noOperand 0x4#64) ∧ MarkedReg.atReset.unwritten = true ∧
    InFlight ⟨0xA#64, .atReset, .atReset, false⟩ (State.reset.accept 0xA#64) ∧ isCommand .parsecL = true := by decide
/-- A tainted parse. -/
def tainted (w : Word) : State := (parsing w 5#64 (digits [1, 2, 3, 4, 5])).hostWrite 0x1000#64 0x32#8
theorem witness_Tainted :
    ParseInFlight .parsecL ⟨0xA#64, .written 0x1000#64, .written 5#64, true⟩ (sliceAt1000 5#64) (tainted 0xA#64) ∧
    ParseInFlight .parseuL ⟨0x8#64, .written 0x1000#64, .written 5#64, true⟩ (sliceAt1000 5#64) (tainted 0x8#64) ∧
    (sliceAt1000 5#64).admitted (tainted 0xA#64) := by decide
theorem witness_CallingConventions :
    InFlight (latches 0xB#64 0x1000#64 0x1005#64) (parsing 0xB#64 0x1005#64 (digits [1, 2, 3, 4, 5])) ∧
    (latches 0xB#64 0x1000#64 0x1005#64).la0.unwritten = false ∧ (latches 0xB#64 0x1000#64 0x1005#64).la1.unwritten = false ∧
    InFlight ⟨0xB#64, .atReset, .atReset, false⟩ (State.reset.accept 0xB#64) := by decide
theorem witness_CheckedAgrees :
    InFlight (latches 0xA#64 0x1000#64 5#64) (parsing 0xA#64 5#64 (digits [1, 2, 3, 4, 5])) ∧
    commandSlice .parsecL (latches 0xA#64 0x1000#64 5#64) = some (sliceAt1000 5#64) ∧
    commandSlice .parsecE (latches 0xB#64 0x1000#64 0x1015#64) = some (sliceAt1000 21#64) ∧
    ¬ (sliceAt1000 21#64).lengthOk ∧ (latches 0xA#64 0x1000#64 5#64).taint = false := by decide
theorem witness_ReadsOnlySlice :
    ParseInFlight .parsecL (latches 0xA#64 0x1000#64 5#64) (sliceAt1000 5#64) (parsing 0xA#64 5#64 (digits [1, 2, 3, 4, 5])) ∧
    (∀ p, p < 5 → readByte (writeBytes [] 0x1000#64 (digits [1, 2, 3, 4, 5, 6])) (0x1000#64 + BitVec.ofNat 64 p) =
      (sliceAt1000 5#64).byte (parsing 0xA#64 5#64 (digits [1, 2, 3, 4, 5])) p) ∧
    isNext (exec .parsecL (parsing 0xA#64 5#64 (digits [1, 2, 3, 4, 5]))) = true ∧
    isNext (exec .parsecL (unanswering ⟨0x1004#64, 1⟩ (parsing 0xA#64 5#64 (digits [1, 2, 3, 4, 5])))) = false := by decide
theorem witness_ReadsOfRegisters : (State.reset.setArg0 1#64).arg0.unwritten = false ∧ (State.reset.setArg1 1#64).arg1.unwritten = false ∧
    (State.reset.complete (.value 1#64)).result.unwritten = false ∧ State.reset.arg0.unwritten = true ∧
    State.reset.arg1.unwritten = true ∧ State.reset.result.unwritten = true ∧ State.reset.faultRecord = none ∧
    (State.reset.recordFault .unwrittenRegister).faultRecord = some .unwrittenRegister := by decide
theorem witness_Unsupported : (32 : Nat) ≠ 64 ∧ (0x1004#13).toNat % 8 ≠ 0 ∧ State.reset.markRefused.refusalMark = true ∧
    State.reset.markRefused.turns = [] := by decide
theorem witness_HostStore :
    (hostAt (.store (.const 0x1004#64) (.const 0x32#64)) (parsing 0xA#64 5#64 [])).host.rest =
      [.store (.const 0x1004#64) (.const 0x32#64)] ∧
    (hostAt (.store (.const 0x1004#64) (.const 0x32#64)) (parsing 0xA#64 5#64 [])).platform.window.contains 0x1004#64 = false ∧
    State.reset.platform.window.contains State.reset.platform.unitBase = true ∧
    State.reset.platform.window.contains (State.reset.platform.unitBase + 0xFFF#64) = true ∧
    State.reset.platform.window.contains (State.reset.platform.unitBase + 0x1000#64) = false := by decide
theorem witness_HostLoad :
    (hostAt (.load (.const 0x1004#64) 3) (withText (digits [1, 2, 3, 4, 5]))).host.rest = [.load (.const 0x1004#64) 3] ∧
    (hostAt (.load (.const 0x1004#64) 3) (withText (digits [1, 2, 3, 4, 5]))).platform.window.contains 0x1004#64 = false ∧
    (3 : Var) ≠ 4 := by decide
theorem witness_Taint : commandSlice (decodeCommand 0xA#64) (latches 0xA#64 0x1000#64 5#64) = some (sliceAt1000 5#64) ∧
    (sliceAt1000 5#64).lengthOk ∧ (0x1000#64 : Word) = 0x1000#64 + BitVec.ofNat 64 0 ∧
    (∀ p, p < 5 → (0x1005#64 : Word) ≠ 0x1000#64 + BitVec.ofNat 64 p) := by decide
theorem witness_Frames : isNext (exec .parseuE (flying 0x9#64 0x1000#64 0x1000#64 State.reset)) = true ∧
    isNext (exec (.wrStatus 0xFF#64) State.reset) = true ∧ isCommand (.wrStatus 0xFF#64) = false := by decide
theorem witness_ResultWritten : answers (step (unitAt (flying 0x4#64 1#64 0#64 State.reset)))
      ((flying 0x4#64 1#64 0#64 State.reset).complete (.value 63#64)) = true ∧
    ((flying 0x4#64 1#64 0#64 State.reset).complete (.value 63#64)).result ≠ State.reset.result := by decide
theorem witness_RecordedFault : ({ flying 0x4#64 1#64 0#64 State.reset with faultRecord := some .unwrittenRegister } : State).busy = true ∧
    isNext (exec .rdArg0 { State.reset with faultRecord := some .unwrittenRegister }) = true := by decide
theorem witness_Invariant : (unitAt (flying 0x4#64 1#64 0#64 State.reset)).Inv ∧
    isNext (step (unitAt (flying 0x4#64 1#64 0#64 State.reset))) = true :=
  ⟨⟨by decide, by decide, by decide, (fun h => nomatch h), fun _ => rfl, (by rintro f ⟨⟩; rfl), (fun h => nomatch h)⟩, by decide⟩

end Sys2Proof.Tests
end

section
/-! Proofs of family 00_scope: the Host's own byte accesses of memory (spec/00_scope.md R3, spec/42_interface.md R130). -/

namespace Sys2Proof.Machine

/-- Outside the register window a Host byte access is the platform's, not the block's (R3). -/
theorem byteAccess_outside {s : State} {a : Word} (h : s.platform.window.contains a = false) (we : Bool)
    (otherwise : State → Result) : byteAccess we a otherwise s = otherwise s := by
  rw [byteAccess_eq, if_neg (by simp [h])]

/-- A load line outside the window sets its variable to the byte it reads, and that is all it does. -/
theorem hostLine_load_outside {s : State} {a : Expr} (h : s.platform.window.contains (a.eval s.host.vars) = false)
    (x : Var) : hostLine (.load a x) s =
      .next (s.setVar x ((readByte s.memory (a.eval s.host.vars)).setWidth 64)) := by
  rw [hostLine, byteAccess_outside h]

end Sys2Proof.Machine

open Sys2Proof.Machine in
/-- Settles O60: the Host's turn runs the load line, which outside the window is one update of a Host variable. -/
theorem hostLoadBindsTheByteRead : Obligations.HostLoadBindsTheByteRead := by
  intro s ts a x lines hmark hturns hrest hwindow
  have hload := hostLine_load_outside (s := State.setRest lines { s with turns := ts }) hwindow x
  refine ⟨_, (step_host hmark hturns hrest).trans hload, ?_, fun y hy => ?_, rfl⟩
  · exact readVar_set_self x _ _
  · exact readVar_set_ne hy _ _
end

section
/-! Proofs of family 10_state: which steps change RESULT, STATUS, the latches and the fault record (spec/10_state.md R20 to R25,
R35, R38), and the invariant they keep. -/

namespace Sys2Proof.Machine

variable {s t : State}

/-! ## BUSY is a view of the latches (R22) -/

theorem State.busy_congr (h : t.flight = s.flight) : t.busy = s.busy := by
  simp [State.busy, h]

/-! ## What a Host access leaves -/

/-- No Host access but an accepted WR CMD touches the latches. -/
theorem exec_access_flight {i : Instr} (hi : isCommand i = false) (h : exec i s = .next t) :
    t.flight = s.flight ∨ ∃ w, i = .wrCmd w ∧ s.busy = false ∧ t = s.accept w := by
  obtain ⟨u, hu, hcases⟩ := exec_access_next s hi
  obtain rfl := Host.Outcome.next.inj (h.symm.trans hu)
  obtain rfl | ⟨_, -, rfl⟩ | ⟨_, -, rfl⟩ | ⟨_, -, -, rfl⟩ | haccept | ⟨_, rfl⟩ | ⟨-, _, rfl⟩ | ⟨-, rfl⟩ := hcases
  case inr.inr.inr.inr.inl => exact .inr haccept
  all_goals exact .inl rfl

/-- No Host access writes RESULT (R122). -/
theorem exec_access_result {i : Instr} (hi : isCommand i = false) (h : exec i s = .next t) : t.result = s.result := by
  obtain ⟨u, hu, hcases⟩ := exec_access_next s hi
  obtain rfl := Host.Outcome.next.inj (h.symm.trans hu)
  obtain rfl | ⟨_, -, rfl⟩ | ⟨_, -, rfl⟩ | ⟨_, -, -, rfl⟩ | ⟨_, -, -, rfl⟩ | ⟨_, rfl⟩ | ⟨-, _, rfl⟩ | ⟨-, rfl⟩ := hcases <;> rfl

/-- No Host line writes RESULT: only the Unit does (R20). -/
theorem hostLine_result {line : HostLine} (h : hostLine line s = .next t) : t.result = s.result := by
  obtain ⟨i, hi, h | ⟨_, u, hu, rfl⟩⟩ | ⟨_, _, rfl⟩ | rfl | ⟨_, rfl⟩ | ⟨_, _, rfl⟩ := hostLine_next h
  · exact exec_access_result hi h
  · exact (exec_access_result hi hu :)
  all_goals rfl

/-! ## What a command leaves -/

/-- Every command is the Unit's one step on some body (R113, R114). -/
theorem exec_command_eq_unitStep {i : Instr} (hi : isCommand i = true) : ∃ body, exec i = unitStep body := by
  cases i <;> simp only [isCommand, Bool.false_eq_true] at hi <;> exact ⟨_, rfl⟩

/-- After a recorded fault no command has a step (R143). -/
theorem exec_command_halted {i : Instr} {f : Flight} {r : RecordedFault} (hi : isCommand i = true)
    (hf : s.flight = some f) (hr : s.faultRecord = some r) : exec i s = .fault .unitHalted := by
  obtain ⟨body, hbody⟩ := exec_command_eq_unitStep hi
  rw [hbody, unitStep_halted hf hr]

/-- A command that answers a next state was in flight; it then ends, or stays as it was with UnwrittenOperand recorded. -/
theorem exec_command_flight {i : Instr} (hi : isCommand i = true) (h : exec i s = .next t) :
    s.busy = true ∧ (t.flight = none ∨ t.flight = s.flight) := by
  obtain ⟨f, hf, hend⟩ := exec_command_next hi h
  refine ⟨State.busy_of_flight hf.1, ?_⟩
  obtain rfl | ⟨o, rfl | rfl⟩ := hend <;> simp

/-- A command changes RESULT only by completing with a value (R115, R116). -/
theorem exec_command_result {i : Instr} (hi : isCommand i = true) (h : exec i s = .next t) :
    t.result = s.result ∨ s.busy = true ∧ t.busy = false ∧ t.rv = true ∧ t.err = noError := by
  obtain ⟨f, hf, rfl | ⟨o, ht⟩⟩ := exec_command_next hi h
  · exact .inl rfl
  · cases o with
    | value v => obtain rfl | rfl := ht <;> exact .inr ⟨State.busy_of_flight hf.1, rfl, rfl, rfl⟩
    | error e => obtain rfl | rfl := ht <;> exact .inl rfl

/-- CLZ64 reads LA0, and a parse command reads LA0 and LA1: with one of those unwritten the command records that (R38). -/
theorem exec_unwritten {i : Instr} {f : Flight} (hf : InFlight f s)
    (hu : i = .clz64 ∧ f.la0.unwritten = true ∨
      (i = .parsecL ∨ i = .parsecE ∨ i = .parseuL ∨ i = .parseuE) ∧ (f.la0.unwritten = true ∨ f.la1.unwritten = true)) :
    exec i s = .next (s.recordFault .unwrittenOperand) := by
  obtain ⟨rfl, h0⟩ | ⟨hi, h01⟩ := hu
  · rw [exec, execClz64, unitStep_eq hf, if_pos h0]
  · have hslice : ∃ sl, commandSlice i f = some sl := by
      obtain rfl | rfl | rfl | rfl := hi <;> exact ⟨_, rfl⟩
    obtain ⟨sl, hsl⟩ := hslice
    obtain ⟨checked, form, hexec, -, -⟩ := exec_parse hsl
    rw [hexec s hf, parseBody, if_pos (by simpa using h01)]

/-! ## The invariant, update by update -/

/-- A Host write hits only the slice of a parse whose operands and length pass the checks of R55, where TAINT is in place. -/
theorem Flight.taintOk_of_sliceHit {f : Flight} {a : Word} (h : f.sliceHit a = true) (b : Bool) :
    ({ f with taint := b } : Flight).taintOk = true := by
  unfold Flight.sliceHit at h
  unfold Flight.taintOk
  split at h
  · cases h
  · rename_i form hform
    rw [Bool.and_eq_true] at h
    simp only [hform, h.1, Bool.or_true]

/-- So a Host write leaves the flag where it may stand. -/
theorem Flight.taintOk_hostWrote {f : Flight} (h : f.taintOk = true) (a : Word) : (f.hostWrote a).taintOk = true := by
  cases hit : f.sliceHit a with
  | true => exact Flight.taintOk_of_sliceHit hit _
  | false =>
    have hsame : f.hostWrote a = f := by simp [Flight.hostWrote, hit]
    rwa [hsame]

namespace State.Inv

variable (h : s.Inv)
include h

/-- The turns, ARG0, ARG1, DROP, the last value read, the draws, the refusal mark and the lines still to run are not in the invariant. -/
theorem congr (memory : t.memory = s.memory := by rfl) (vars : t.host.vars = s.host.vars := by rfl)
    (err : t.err = s.err := by rfl) (rv : t.rv = s.rv := by rfl) (result : t.result = s.result := by rfl)
    (flight : t.flight = s.flight := by rfl) (fault : t.faultRecord = s.faultRecord := by rfl) : t.Inv where
  memory := memory ▸ h.memory
  vars := vars ▸ h.vars
  err := err ▸ h.err
  rv := by rw [rv, busy_congr flight, err, result]; exact h.rv
  busyErr := by rw [busy_congr flight, err]; exact h.busyErr
  taint := flight ▸ h.taint
  halted := by rw [fault, busy_congr flight]; exact h.halted

theorem setVar (x : Var) (v : Word) : (s.setVar x v).Inv :=
  { h with vars := Assoc.pairwise_set x v h.vars }

theorem hostWrite (a : Word) (b : Byte) : (s.hostWrite a b).Inv := by
  have hbusy : (s.hostWrite a b).busy = s.busy := by simp [State.busy]
  refine
    { vars := h.vars, err := h.err, memory := writeByte_wf a b h.memory, rv := hbusy ▸ h.rv, busyErr := hbusy ▸ h.busyErr,
      taint := fun f' hf' => ?_, halted := hbusy ▸ h.halted }
  rw [State.hostWrite_flight, Option.map_eq_some_iff] at hf'
  obtain ⟨f, hf, rfl⟩ := hf'
  exact Flight.taintOk_hostWrote (h.taint f hf) a

/-- An accept clears ERR and RV, and its command starts untainted (R111). -/
theorem accept (w : Word) : (s.accept w).Inv where
  memory := h.memory
  vars := h.vars
  err := Nat.zero_le _
  rv := nofun
  busyErr _ := rfl
  taint := by rintro _ ⟨⟩; rfl
  halted _ := rfl

/-- A completion ends the command, with RV and RESULT or with a produced code (R115, R116); it happens only while no fault is
recorded (R113). -/
theorem complete (hfault : s.faultRecord = none) (o : CommandOutcome) : (s.complete o).Inv where
  memory := by simpa using h.memory
  vars := by simpa using h.vars
  err := by cases o <;> simp [noError]
  rv := by cases o <;> simp [MarkedReg.written]
  busyErr := by simp
  taint := by simp
  halted := by simp [hfault]

/-- UnwrittenOperand is recorded of a command in flight, so BUSY is 1 under it (R113). -/
theorem recordFault {r : RecordedFault} (hr : r = .unwrittenOperand → s.busy = true) : (s.recordFault r).Inv := by
  refine { h with halted := fun hrec => ?_ }
  rw [State.recordFault_faultRecord, Option.some.injEq] at hrec
  cases hs : s.faultRecord with
  | none => exact hr (by simpa [hs] using hrec)
  | some r' => exact h.halted (by simpa [hs] using hrec)

theorem resetBlock : s.resetBlock.Inv where
  memory := h.memory
  vars := h.vars
  err := Nat.zero_le _
  rv := nofun
  busyErr := nofun
  taint := nofun
  halted := nofun

/-! ## The invariant, agent by agent -/

theorem exec_command {i : Instr} (hi : isCommand i = true) (hexec : exec i s = .next t) : t.Inv := by
  obtain ⟨f, ⟨hf, hfault⟩, rfl | ⟨o, rfl | rfl⟩⟩ := exec_command_next hi hexec
  · exact h.recordFault fun _ => State.busy_of_flight hf
  · exact h.complete hfault o
  · exact (h.complete hfault o).congr

theorem exec_access {i : Instr} (hi : isCommand i = false) (hexec : exec i s = .next t) : t.Inv := by
  obtain ⟨u, hu, hcases⟩ := exec_access_next s hi
  obtain rfl := Host.Outcome.next.inj (hexec.symm.trans hu)
  obtain rfl | ⟨_, -, rfl⟩ | ⟨_, -, rfl⟩ | ⟨_, -, -, rfl⟩ | ⟨w, -, -, rfl⟩ | ⟨_, rfl⟩ | ⟨-, _, rfl⟩ | ⟨-, rfl⟩ := hcases
  case inr.inr.inr.inr.inl => exact h.accept w
  case inr.inr.inr.inr.inr.inr.inl => exact (h.recordFault (r := .unwrittenRegister) nofun).congr
  all_goals exact h.congr

theorem hostLine {line : HostLine} (hline : hostLine line s = .next t) : t.Inv := by
  obtain ⟨i, hi, hexec | ⟨x, u, hexec, rfl⟩⟩ | ⟨x, v, rfl⟩ | rfl | ⟨lines, rfl⟩ | ⟨a, b, rfl⟩ := hostLine_next hline
  · exact h.exec_access hi hexec
  · exact (h.exec_access hi hexec).setVar x _
  · exact h.setVar x v
  · exact h
  · exact h.congr
  · exact h.hostWrite a b

end State.Inv
end Sys2Proof.Machine

section
open Sys2Proof.Machine

/-- Settles O58: a step is a reset, a turn that passes, the completion of the command in flight, or a Host line. -/
theorem everyStepKeepsTheInvariant : Obligations.EveryStepKeepsTheInvariant := by
  intro s t h hstep
  obtain ⟨ts, hturn⟩ := step_next hstep
  have h' : State.Inv { s with turns := ts } := h.congr
  obtain ⟨-, rfl⟩ | rfl | ⟨f, -, hexec⟩ | ⟨line, lines, -, hline⟩ := hturn
  · exact h'.resetBlock
  · exact h'
  · exact h'.exec_command (isCommand_decodeCommand f.lop) hexec
  · exact State.Inv.hostLine h'.congr hline

/-- Settles O17: of the Host accesses only an accept touches the latches, and a command starts from BUSY = 1. -/
theorem onlyAcceptAndCompletionChangeBusy : Obligations.OnlyAcceptAndCompletionChangeBusy := by
  intro i s t hexec
  cases hi : isCommand i with
  | true =>
    obtain ⟨hbusy, -⟩ := exec_command_flight hi hexec
    exact ⟨fun hidle => absurd (hbusy.symm.trans hidle) (by decide), fun _ hidle => ⟨rfl, State.busy_eq_false.1 hidle⟩⟩
  | false =>
    obtain hflight | ⟨w, hw, hidle, -⟩ := exec_access_flight hi hexec
    · rw [State.busy_congr hflight]
      exact ⟨fun h0 h1 => absurd (h0.symm.trans h1) (by decide), fun h1 h0 => absurd (h0.symm.trans h1) (by decide)⟩
    · exact ⟨fun _ _ => ⟨w, hw⟩, fun hbusy => absurd (hidle.symm.trans hbusy) (by decide)⟩

/-- Settles O37: the body stops at the unwritten latch, and the record it leaves halts every command. -/
theorem unwrittenOperandIsRecorded : Obligations.UnwrittenOperandIsRecorded := by
  intro i s f hf hu
  have hexec := exec_unwritten hf hu
  rw [recordFault_eq hf.2] at hexec
  exact ⟨_, hexec, rfl, State.busy_of_flight hf.1, fun j hj => exec_command_halted hj hf.1 rfl⟩

/-- Settles O56: no Host line writes RESULT, and a command writes it only by completing with a value. -/
theorem onlySuccessWritesResult : Obligations.OnlySuccessWritesResult := by
  intro s t hstep hne
  obtain ⟨ts, ⟨hreset, -⟩ | rfl | ⟨f, -, hexec⟩ | ⟨line, lines, -, hline⟩⟩ := step_next hstep
  · exact .inl ⟨ts, hreset⟩
  · exact absurd rfl hne
  · exact .inr ((exec_command_result (isCommand_decodeCommand f.lop) hexec).resolve_left hne)
  · exact absurd (hostLine_result hline) hne

/-- Settles O28: position p of length L reads entry 20 - L + p, whose power is 19 - (20 - L + p) = L - 1 - p. -/
theorem romHoldsThePowersRead : Obligations.RomHoldsThePowersRead := by
  refine ⟨fun j hj => rom_toNat hj, fun L p hL hL20 hp => ?_⟩
  have hidx : romIndex L p = 20 - L + p := rfl
  have hlt : romIndex L p < 20 := by omega
  have hexp : 19 - romIndex L p = L - 1 - p := by omega
  exact ⟨hidx, hlt, hexp ▸ rom_toNat hlt⟩

end
end

section
/-! Proofs of family 20_memory: what the Host and the Unit read and write of Host memory (spec/20_memory.md R42, R46 to R51, R55). -/

namespace Sys2Proof.Machine

variable {s t : State}

/-! ## Host accesses (R46, R51) -/

/-- An access the window does not support decodes to the refused access, whatever its data (R46). -/
theorem decodeBus_unsupported {width : Nat} {request : Request} (h : width ≠ 64 ∨ request.toNat % 8 ≠ 0) (data : Word) :
    decodeBus width request data = .refusedAccess width request := by
  by_cases hw : width = 64
  · have hoff : (requestOff request).extractLsb' 0 3 ≠ 0#3 := mt (requestOff_low3 request).1 (h.resolve_left (not_not.2 hw))
    rw [decodeBus, if_neg (not_not.2 hw), if_pos hoff]
  · rw [decodeBus, if_pos hw]

/-- Inside the register window a Host byte access, of whatever kind, sets the refusal mark (R46). -/
theorem byteAccess_inside {a : Word} (h : s.platform.window.contains a = true) (we : Bool) (otherwise : State → Result) :
    byteAccess we a otherwise s = .next s.markRefused := by
  rw [byteAccess_eq, if_pos h]

/-- A store or load line whose address is in the window only sets the mark, whatever it would write or bind. -/
theorem hostLine_byte_inside {line : HostLine} {a v : Expr} {x : Var} (hline : line = .store a v ∨ line = .load a x)
    (h : s.platform.window.contains (a.eval s.host.vars) = true) : hostLine line s = .next s.markRefused := by
  obtain rfl | rfl := hline <;> rw [hostLine, byteAccess_inside h]

/-! ## The slice of a parse command (R12, R50, R55) -/

/-- An address is covered exactly when it is (B + p) mod 2^64 for a position p below the length. -/
theorem Slice.covers_iff (sl : Slice) (a : Word) :
    sl.covers a = true ↔ ∃ p, p < sl.length.toNat ∧ a = sl.start + BitVec.ofNat 64 p := by
  rw [Slice.covers, decide_eq_true_eq]
  constructor
  · intro h
    exact ⟨(a - sl.start).toNat, h, by rw [BitVec.ofNat_toNat, BitVec.setWidth_eq, BitVec.add_comm, BitVec.sub_add_cancel]⟩
  · rintro ⟨p, hp, rfl⟩
    have hlt : p < 2 ^ 64 := Nat.lt_trans hp sl.length.isLt
    rwa [BitVec.add_comm, BitVec.add_sub_cancel, BitVec.toNat_ofNat, Nat.mod_eq_of_lt hlt]

/-- A command's slice is what its slice form makes of the two latches (R66, R67). -/
theorem commandSlice_eq_map (i : Instr) (f : Flight) :
    commandSlice i f = i.sliceForm.map fun form => sliceOf form f.la0.value f.la1.value := by
  cases i <;> rfl

/-- With the checks of R55 passed, a Host write hits the command in flight exactly where its slice covers the address. -/
theorem Flight.sliceHit_eq_covers {f : Flight} {sl : Slice} (h0 : f.la0.unwritten = false) (h1 : f.la1.unwritten = false)
    (hsl : commandSlice (decodeCommand f.lop) f = some sl) (hlen : sl.lengthOk) (a : Word) : f.sliceHit a = sl.covers a := by
  rw [commandSlice_eq_map, Option.map_eq_some_iff] at hsl
  obtain ⟨form, hform, rfl⟩ := hsl
  simp [Flight.sliceHit, hform, h0, h1, lencheck_none.2 hlen]

theorem Flight.hostWrote_hit {f : Flight} {a : Word} (h : f.sliceHit a = true) : f.hostWrote a = { f with taint := true } := by
  simp [Flight.hostWrote, h]

theorem Flight.hostWrote_miss {f : Flight} {a : Word} (h : f.sliceHit a = false) : f.hostWrote a = f := by
  simp [Flight.hostWrote, h]

/-- With the operands written and the length in range, a byte the platform does not answer stops the body (R50, R137). -/
theorem parseBody_stuck {form : SliceForm} {f : Flight} (checked : Bool) (h0 : f.la0.unwritten = false)
    (h1 : f.la1.unwritten = false) (hlen : (sliceOf form f.la0.value f.la1.value).lengthOk)
    (hadm : s.platform.admitsSlice (sliceOf form f.la0.value f.la1.value) = false) :
    parseBody checked form f s = .fault .stuckSlice := by
  simp [parseBody, h0, h1, lencheck_none.2 hlen, hadm]

/-! ## Another Host memory under the same state (R49) -/

/-- The state with another Host memory. -/
def State.withMemory (m : Memory) (s : State) : State := { s with memory := m }

/-- An outcome whose next state, if it has one, is put through `g`. -/
def mapNext (g : State → State) : Result → Result
  | .next t => .next (g t)
  | .fault r => .fault r
  | .refused r => .refused r

theorem State.complete_withMemory (o : CommandOutcome) (m : Memory) (s : State) :
    (s.withMemory m).complete o = (s.complete o).withMemory m := by
  cases o <;> rfl

theorem sliceBytes_congr {m m' : Memory} {sl : Slice}
    (h : ∀ p, p < sl.length.toNat → readByte m (sl.address p) = readByte m' (sl.address p)) :
    sliceBytes m sl = sliceBytes m' sl := by
  simpa [sliceBytes, Slice.addresses] using h

/-- The body of a parse command sees Host memory through the bytes of its slice alone: the tests of operands, length, admission and
TAINT do not look at it. -/
theorem parseBody_withMemory (checked : Bool) {form : SliceForm} {f : Flight} {m : Memory}
    (h : sliceBytes m (sliceOf form f.la0.value f.la1.value) = sliceBytes s.memory (sliceOf form f.la0.value f.la1.value)) :
    parseBody checked form f (s.withMemory m) = mapNext (State.withMemory m) (parseBody checked form f s) := by
  have hmemory : (s.withMemory m).memory = m := rfl
  have hplatform : (s.withMemory m).platform = s.platform := rfl
  have hdraws : (s.withMemory m).draws = s.draws := rfl
  simp only [parseBody, hmemory, hplatform, hdraws, h, State.complete_withMemory]
  split
  · rfl
  · split
    · rfl
    · split_ifs <;> rfl

end Sys2Proof.Machine
end

section
open Sys2Proof Sys2Proof.Machine

/-- Settles O36: the one parse body stops at its admission test. -/
theorem unadmittedSliceIsStuck : Obligations.UnadmittedSliceIsStuck := by
  rintro i s f sl ⟨hf, h0, h1, hsl⟩ hlen ⟨p, hp, hreject⟩
  obtain ⟨checked, form, hexec, rfl, -⟩ := exec_parse hsl
  have hadm : ¬ s.platform.admitsSlice (sliceOf form f.la0.value f.la1.value) = true := fun hall =>
    absurd (hreject.symm.trans ((admitsSlice_iff s _).1 hall p hp)) (by decide)
  rw [hexec s hf, parseBody_stuck checked h0 h1 hlen (Bool.eq_false_of_not_eq_true hadm)]

/-- Settles O41: on a memory with the same slice bytes the body has the same outcome, up to that memory. -/
theorem parseReadsOnlyItsSlice : Obligations.ParseReadsOnlyItsSlice := by
  rintro i s t f sl m ⟨hf, -, -, hsl⟩ hagree
  obtain ⟨checked, form, hexec, rfl, -⟩ := exec_parse hsl
  have hmap : exec i (s.withMemory m) = mapNext (State.withMemory m) (exec i s) := by
    rw [hexec s hf, hexec (s.withMemory m) hf, parseBody_withMemory checked (sliceBytes_congr hagree)]
  exact ⟨fun h => hmap.trans (congrArg _ h), fun h => hmap.trans (congrArg _ h)⟩

/-- Settles O50: the write hits the command exactly where the slice covers its address. -/
theorem hostWriteTaintsExactlyTheSlice : Obligations.HostWriteTaintsExactlyTheSlice := by
  intro s f sl a b hf h0 h1 hsl hlen
  have hflight : (s.hostWrite a b).flight = some (f.hostWrote a) := by rw [State.hostWrite_flight, hf, Option.map_some]
  have hhit := Flight.sliceHit_eq_covers h0 h1 hsl hlen a
  rw [hflight]
  constructor
  · intro hin
    rw [Flight.hostWrote_hit (hhit.trans ((sl.covers_iff a).2 hin))]
  · intro hout
    have hnot : ¬ sl.covers a = true := fun hcov =>
      let ⟨p, hp, ha⟩ := (sl.covers_iff a).1 hcov
      hout p hp ha
    rw [Flight.hostWrote_miss (hhit.trans (Bool.eq_false_of_not_eq_true hnot))]

/-- Settles O52: exec leaves Host memory itself as it is. -/
theorem noAccessOrCommandWritesHostMemory : Obligations.NoAccessOrCommandWritesHostMemory := by
  intro i s t hexec a
  obtain ⟨hmemory, -⟩ := exec_next_outside hexec
  rw [hmemory]

/-- Settles O55: each shape a Host access can have changes only what the statement grants it. -/
theorem hostAccessFrame : Obligations.HostAccessFrame := by
  intro i s t hi hexec
  obtain ⟨hmemory, hhost, hplatform, hturns⟩ := exec_next_outside hexec
  refine ⟨exec_access_result hi hexec, hmemory, hhost, hplatform, hturns, ?_⟩
  obtain ⟨u, hu, hcases⟩ := exec_access_next s hi
  obtain rfl := Host.Outcome.next.inj (hexec.symm.trans hu)
  obtain rfl | ⟨v, hv, rfl⟩ | ⟨v, hv, rfl⟩ | ⟨w, hw, -, rfl⟩ | ⟨w, hw, -, rfl⟩ | ⟨_, rfl⟩ | ⟨hunwritten, _, rfl⟩ |
    ⟨hrefused, rfl⟩ := hcases
  · simp
  · simp [hv]
  · simp [hv]
  · simp [hw]
  · simp [hw]
  · simp
  · simp [hunwritten]
  · simp [hrefused]

/-- Settles O47: the decoder refuses the access by name, and its meaning is the mark alone. -/
theorem unsupportedAccessSetsTheRefusalMark : Obligations.UnsupportedAccessSetsTheRefusalMark :=
  fun _ _ data _ hbad => ⟨decodeBus_unsupported hbad data, rfl⟩

/-- Settles O51: the Host's turn runs the line, and the line's byte access is refused there. -/
theorem byteAccessToTheWindowIsRefused : Obligations.ByteAccessToTheWindowIsRefused := by
  intro s ts line a v x lines hmark hturns hrest hline hwindow
  have hrefused := hostLine_byte_inside (s := State.setRest lines { s with turns := ts }) hline hwindow
  exact (step_host hmark hturns hrest).trans hrefused

/-- Settles O53: every Host access has one of the shapes of `exec_access_next`, each a next state. -/
theorem everyHostAccessCompletes : Obligations.EveryHostAccessCompletes := by
  intro i s hi
  obtain ⟨t, hexec, -⟩ := exec_access_next s hi
  exact ⟨t, hexec⟩

end

section
/-! Proofs of family 30_encoding: decode and encode undo each other on command words and on bus requests, and the Host's turn
runs what its line encodes (spec/30_encoding.md R59 to R71). -/

namespace Sys2Proof

/-- Decoding the encoding of a well-formed instruction gives it back, constructor by constructor. -/
theorem decode_encode {i : Instr} (h : i.wellFormed = true) : decode (encode i) = i := by
  cases i with
  | clz64 => exact Laws.RoundTrip.clz64 h
  | parseuL => exact Laws.RoundTrip.parseuL h
  | parseuE => exact Laws.RoundTrip.parseuE h
  | parsecL => exact Laws.RoundTrip.parsecL h
  | parsecE => exact Laws.RoundTrip.parsecE h
  | illegal word => exact Laws.RoundTrip.illegal word h
  | wrArg0 data => exact Laws.RoundTrip.wrArg0 data h
  | rdArg0 => exact Laws.RoundTrip.rdArg0 h
  | wrArg1 data => exact Laws.RoundTrip.wrArg1 data h
  | rdArg1 => exact Laws.RoundTrip.rdArg1 h
  | wrCmd word => exact Laws.RoundTrip.wrCmd word h
  | rdCmd => exact Laws.RoundTrip.rdCmd h
  | wrResult data => exact Laws.RoundTrip.wrResult data h
  | rdResult => exact Laws.RoundTrip.rdResult h
  | wrStatus data => exact Laws.RoundTrip.wrStatus data h
  | rdStatus => exact Laws.RoundTrip.rdStatus h
  | wrId data => exact Laws.RoundTrip.wrId data h
  | rdId => exact Laws.RoundTrip.rdId h
  | wrRsvd off data => exact Laws.RoundTrip.wrRsvd off data h
  | rdRsvd off => exact Laws.RoundTrip.rdRsvd off h
  | refusedAccess width request => exact Laws.RoundTrip.refusedAccess width request h

/-! ## Command words (R60 to R63) -/

/-- A word outside the five legal ones is illegal. -/
theorem decodeCommand_illegal {w : Word} (h : w ∉ legalCommandWords) : decodeCommand w = .illegal w :=
  decode_encode (i := .illegal w) (by simpa [Instr.wellFormed] using h)

/-- Whatever a word decodes to is well formed and encodes back to that word. -/
theorem decodeCommand_roundTrip (w : Word) :
    (decodeCommand w).wellFormed = true ∧ encode (decodeCommand w) = .command w := by
  by_cases h : w ∈ legalCommandWords
  · simp only [legalCommandWords, List.mem_cons, List.not_mem_nil, or_false] at h
    obtain rfl | rfl | rfl | rfl | rfl := h <;> decide
  · rw [decodeCommand_illegal h]
    exact ⟨by simpa [Instr.wellFormed] using h, rfl⟩

/-- A well-formed command is selected by its own encoding and by no other word. -/
theorem decodeCommand_eq_iff {i : Instr} {k : Word} (hi : i.wellFormed = true) (hk : encode i = .command k) (w : Word) :
    decodeCommand w = i ↔ w = k := by
  constructor
  · rintro rfl
    obtain ⟨-, hw⟩ := decodeCommand_roundTrip w
    exact Encoding.command.inj (hw.symm.trans hk)
  · rintro rfl
    have hdecode := decode_encode hi
    rwa [hk] at hdecode

/-- Which words with RSV = 0 are illegal, by the fields UNIT, CHK and END: a check of the sixteen of them. -/
theorem decodeCommand_setWidth_illegal_iff (k : BitVec 4) :
    decodeCommand (k.setWidth 64) = .illegal (k.setWidth 64) ↔
      commandUnit (k.setWidth 64) = 0b00#2 ∨ commandUnit (k.setWidth 64) = 0b11#2 ∨
      (commandUnit (k.setWidth 64) = 0b01#2 ∧ (commandChk (k.setWidth 64) = true ∨ commandEnd (k.setWidth 64) = true)) := by
  revert k
  decide

/-- Which words are illegal, by their fields (R62). -/
theorem decodeCommand_illegal_iff (w : Word) :
    decodeCommand w = .illegal w ↔
      commandRsv w ≠ 0#60 ∨ commandUnit w = 0b00#2 ∨ commandUnit w = 0b11#2 ∨
      (commandUnit w = 0b01#2 ∧ (commandChk w = true ∨ commandEnd w = true)) := by
  by_cases hrsv : commandRsv w = 0#60
  · have hw : w = (commandOpc w).setWidth 64 := (command_eq_iff w _).2 ⟨hrsv, rfl⟩
    rw [or_iff_right (not_not.2 hrsv), hw]
    exact decodeCommand_setWidth_illegal_iff _
  · exact iff_of_true (if_pos hrsv) (.inl hrsv)

/-! ## Bus requests (R68 to R70) -/

/-- A request is as aligned as its offset. -/
theorem requestWord_mod8 (we : Bool) (off : Offset) : (requestWord we off).toNat % 8 = 0 ↔ off.toNat % 8 = 0 := by
  rw [← requestOff_low3, requestOff_requestWord, extract_low3]

/-- A supported request decodes by the write rows or the read rows of R69. -/
theorem decodeBus_requestWord (off : Offset) (h : off.toNat % 8 = 0) (we : Bool) (data : Word) :
    decodeBus 64 (requestWord we off) data = if we then decodeWrite off data else decodeRead off := by
  simp [decodeBus, extract_low3, h]

theorem encode_decodeWrite (off : Offset) (data : Word) : encode (decodeWrite off data) = writeAccess off data := by
  unfold decodeWrite
  split_ifs <;> subst_vars <;> rfl

theorem encode_decodeRead (off : Offset) : encode (decodeRead off) = readAccess off := by
  unfold decodeRead
  split_ifs <;> subst_vars <;> rfl

/-- An aligned offset that no register is named at is a reserved one (R69). -/
theorem isReservedOffset_of_unnamed {off : Offset} (h : off.toNat % 8 = 0) (h00 : off ≠ 0x000#12) (h08 : off ≠ 0x008#12)
    (h10 : off ≠ 0x010#12) (h18 : off ≠ 0x018#12) (h20 : off ≠ 0x020#12) (h28 : off ≠ 0x028#12) :
    isReservedOffset off = true := by
  rw [isReservedOffset, Bool.and_eq_true, decide_eq_true_eq, decide_eq_true_eq]
  exact ⟨by bv_omega, h⟩

theorem wellFormed_decodeWrite {off : Offset} (h : off.toNat % 8 = 0) (data : Word) :
    (decodeWrite off data).wellFormed = true := by
  unfold decodeWrite
  split_ifs
  case neg => exact isReservedOffset_of_unnamed h ‹_› ‹_› ‹_› ‹_› ‹_› ‹_›
  all_goals rfl

theorem wellFormed_decodeRead {off : Offset} (h : off.toNat % 8 = 0) : (decodeRead off).wellFormed = true := by
  unfold decodeRead
  split_ifs
  case neg => exact isReservedOffset_of_unnamed h ‹_› ‹_› ‹_› ‹_› ‹_› ‹_›
  all_goals rfl

/-- No read row of R69 is a refused access. -/
theorem decodeRead_ne_refusedAccess (off : Offset) (width : Nat) (request : Request) :
    decodeRead off ≠ .refusedAccess width request := by
  unfold decodeRead
  split_ifs <;> nofun

end Sys2Proof

namespace Sys2Proof.Machine

variable {s t : State}

/-! ## The lines of the Host (R71) -/

/-- Only an access the window does not support sets the refusal mark (R46). -/
theorem exec_access_refusalMark {i : Instr} (hi : isCommand i = false)
    (hsupported : ∀ width request, i ≠ .refusedAccess width request) (h : exec i s = .next t) :
    t.refusalMark = s.refusalMark := by
  obtain ⟨u, hu, hcases⟩ := exec_access_next s hi
  obtain rfl := Host.Outcome.next.inj (h.symm.trans hu)
  obtain rfl | ⟨_, -, rfl⟩ | ⟨_, -, rfl⟩ | ⟨_, -, -, rfl⟩ | ⟨_, -, -, rfl⟩ | ⟨_, rfl⟩ | ⟨-, _, rfl⟩ |
    ⟨⟨width, request, hrefused⟩, -⟩ := hcases
  case inr.inr.inr.inr.inr.inr.inr => exact absurd hrefused (hsupported width request)
  all_goals rfl

/-- A read line at an aligned offset binds its variable to the value read. -/
theorem hostLine_rd_aligned {reg : WindowReg} (haligned : reg.offset.toNat % 8 = 0) (hmark : s.refusalMark = false)
    (x : Var) (h : exec (decode (readAccess reg.offset)) s = .next t) :
    hostLine (.rd reg x) s = .next (t.setVar x t.readData) := by
  have hunmarked : t.refusalMark = false := by
    rw [Laws.RoundTrip.decode_readAccess haligned] at h
    have hread : isCommand (decodeRead reg.offset) = false :=
      Laws.RoundTrip.decode_readAccess haligned ▸ isCommand_decodeBus _ _ _
    rw [exec_access_refusalMark hread (decodeRead_ne_refusedAccess _) h, hmark]
  rw [hostLine, h, bindRead, if_neg (by simp [hunmarked])]

/-- A read line at a misaligned offset sets the refusal mark alone. -/
theorem hostLine_rd_misaligned {reg : WindowReg} (h : reg.offset.toNat % 8 ≠ 0) (x : Var) :
    hostLine (.rd reg x) s = .next s.markRefused := by
  have hdecode : decode (readAccess reg.offset) = .refusedAccess 64 (requestWord false reg.offset) :=
    decodeBus_unsupported (.inr (mt (requestWord_mod8 false reg.offset).1 h)) 0#64
  rw [hostLine, hdecode]
  rfl

/-- A Host-side computation sets a variable, goes on from another line, or does nothing. -/
theorem hostLine_computation {line : HostLine}
    (hline : (∃ x e, line = .set x e) ∨ (∃ l, line = .label l) ∨ ∃ c l, line = .ifGoto c l) (h : hostLine line s = .next t) :
    (∃ x v, t = s.setVar x v) ∨ t = s ∨ ∃ lines, t = s.setRest lines := by
  obtain ⟨x, e, rfl⟩ | ⟨l, rfl⟩ | ⟨c, l, rfl⟩ := hline
  · cases h; exact .inl ⟨x, _, rfl⟩
  · cases h; exact .inr (.inl rfl)
  · rw [hostLine] at h
    split at h
    · split at h <;> cases h
      exact .inr (.inr ⟨_, rfl⟩)
    · cases h; exact .inr (.inl rfl)

/-- A turn of the Host that answers a next state ran the next line: under the refusal mark it answers none (R143). -/
theorem step_host_next {ts : List Turn} {line : HostLine} {lines : List HostLine} (hturns : s.turns = .host :: ts)
    (hrest : s.host.rest = line :: lines) (h : step s = .next t) :
    hostLine line (State.setRest lines { s with turns := ts }) = .next t := by
  by_cases hmark : s.refusalMark = true
  · simp [step, nextStep, hturns, hostTurn, hmark] at h
  · rwa [step_host (Bool.eq_false_of_not_eq_true hmark) hturns hrest] at h

/-! ## The lifecycle of a command (R111, R133) -/

/-- While idle the block accepts any word written to CMD (R111). -/
theorem exec_wrCmd_idle (h : s.busy = false) (w : Word) : exec (.wrCmd w) s = .next (s.accept w) := by
  rw [exec, execWrCmd, if_neg (by simp [h])]

/-- An illegal command in flight completes with ILLEGAL_COMMAND (R133). -/
theorem exec_illegal {f : Flight} (h : InFlight f s) (w : Word) :
    exec (.illegal w) s = .next (s.complete (.error .illegalCommand)) := by
  rw [exec, execIllegal, unitStep_eq h]

end Sys2Proof.Machine
end

section
open Sys2Proof Sys2Proof.Machine

/-- Settles O1, by the round trip of each constructor. -/
theorem decodeOfEncodeIsIdentity : Obligations.DecodeOfEncodeIsIdentity :=
  fun _ => decode_encode

/-- Settles O2: the five legal words one by one, and every other word is its own illegal instruction. -/
theorem commandWordHasOneMeaning : Obligations.CommandWordHasOneMeaning :=
  decodeCommand_roundTrip

/-- Settles O3: an unsupported access is kept as it is, and a supported one is put together again from WE and OFF. -/
theorem busRequestHasOneMeaning : Obligations.BusRequestHasOneMeaning := by
  intro width request data
  by_cases hbad : width ≠ 64 ∨ request.toNat % 8 ≠ 0
  · rw [decodeBus_unsupported hbad]
    refine ⟨?_, ⟨0#64, rfl⟩, fun hwidth haligned => absurd hbad (by simp [hwidth, haligned])⟩
    simpa [Instr.wellFormed, isUnsupported] using hbad
  · obtain ⟨rfl, haligned⟩ : width = 64 ∧ request.toNat % 8 = 0 := by simpa using hbad
    obtain ⟨we, off, rfl⟩ : ∃ we off, request = requestWord we off := ⟨_, _, (requestWord_eta request).symm⟩
    have hoff := (requestWord_mod8 we off).1 haligned
    rw [decodeBus_requestWord off hoff]
    cases we with
    | true =>
      have hencode := encode_decodeWrite off data
      exact ⟨wellFormed_decodeWrite hoff data, ⟨data, hencode⟩, fun _ _ _ => hencode⟩
    | false =>
      have hread : (requestWord false off).getLsbD 12 = false := requestWe_requestWord false off
      exact ⟨wellFormed_decodeRead hoff, ⟨0#64, encode_decodeRead off⟩, fun _ _ hwrite => absurd (hread.symm.trans hwrite) nofun⟩

/-- Settles O4: each legal word is the encoding of its command, which no other word selects. -/
theorem legalCommandWordsSelectCommands : Obligations.LegalCommandWordsSelectCommands := fun w =>
  ⟨decodeCommand_eq_iff rfl rfl w, decodeCommand_eq_iff rfl rfl w, decodeCommand_eq_iff rfl rfl w,
    decodeCommand_eq_iff rfl rfl w, decodeCommand_eq_iff rfl rfl w,
    fun h4 h8 h9 hA hB => decodeCommand_illegal (by simp [legalCommandWords, h4, h8, h9, hA, hB])⟩

/-- Settles O5: the fields by `decodeCommand_illegal_iff`, the accept and the completion by the lifecycle of a command. -/
theorem illegalCommandWordsAcceptedAndReported : Obligations.IllegalCommandWordsAcceptedAndReported := fun w =>
  ⟨decodeCommand_illegal_iff w, fun _ hidle => exec_wrCmd_idle hidle w, fun _ _ hf => exec_illegal hf w⟩

/-- Settles O7: an aligned request decodes by the rows of its offset, a misaligned one is refused. -/
theorem busRequestsDecodeByTable : Obligations.BusRequestsDecodeByTable := by
  refine ⟨fun data => ?_, fun off data hlow haligned => ?_, fun request data hbad => decodeBus_unsupported (.inr hbad) data⟩
  · exact ⟨decodeBus_requestWord 0x000#12 rfl true data, decodeBus_requestWord 0x000#12 rfl false data,
      decodeBus_requestWord 0x008#12 rfl true data, decodeBus_requestWord 0x008#12 rfl false data,
      decodeBus_requestWord 0x010#12 rfl true data, decodeBus_requestWord 0x010#12 rfl false data,
      decodeBus_requestWord 0x018#12 rfl true data, decodeBus_requestWord 0x018#12 rfl false data,
      decodeBus_requestWord 0x020#12 rfl true data, decodeBus_requestWord 0x020#12 rfl false data,
      decodeBus_requestWord 0x028#12 rfl true data, decodeBus_requestWord 0x028#12 rfl false data⟩
  · have hreserved : isReservedOffset off = true := by simp [isReservedOffset, hlow, haligned]
    have hwrite := decode_encode (i := .wrRsvd off data) hreserved
    have hread := decode_encode (i := .rdRsvd off) hreserved
    rw [encode, Laws.RoundTrip.decode_writeAccess haligned] at hwrite
    rw [encode, Laws.RoundTrip.decode_readAccess haligned] at hread
    exact ⟨(decodeBus_requestWord off haligned true data).trans hwrite, (decodeBus_requestWord off haligned false data).trans hread⟩

/-- Settles O6: the decoder evaluated at the eight words. -/
theorem specWordsDecode : Obligations.SpecWordsDecode := by
  unfold Obligations.SpecWordsDecode
  decide

/-- Settles O9: the Host's turn runs the line, whose access is the request put together from its register's offset. -/
theorem hostTurnRunsTheAccessOfItsLine : Obligations.HostTurnRunsTheAccessOfItsLine := by
  intro s ts line lines hmark hturns hrest s'
  have hstep : step s = hostLine line s' := step_host hmark hturns hrest
  refine ⟨?_, ?_, ?_, ?_⟩
  · rintro reg e rfl
    exact hstep
  · rintro width request data rfl
    exact hstep
  · rintro reg x rfl haligned t hexec
    exact hstep.trans (hostLine_rd_aligned (s := s') haligned hmark x hexec)
  · rintro reg x rfl hbad
    exact hstep.trans (hostLine_rd_misaligned hbad x)

/-- Settles O10: such a line only sets a variable or the lines still to run, both the Host's own. -/
theorem hostComputationTouchesNoBlockState : Obligations.HostComputationTouchesNoBlockState := by
  intro s t ts line lines hturns hrest hline hstep
  obtain ⟨x, v, rfl⟩ | rfl | ⟨lines', rfl⟩ := hostLine_computation hline (step_host_next hturns hrest hstep) <;>
    exact ⟨rfl, rfl⟩

end

section
/-! Proofs of family 40_parse: the digit test, the accumulation and the numeral it holds, and how the four parse commands complete
(spec/40_parse.md R78 to R96). -/

namespace Sys2Proof.Machine

/-! ## The accumulation (R81, R82, R94) -/

theorem accum_toNat {bs : List Byte} (hlen : bs.length ≤ 20) (h : ∀ c ∈ bs, digitByte c) :
    (accum bs).toNat = numeral bs % 2 ^ 64 := by
  have hlast : romIndex bs.length 0 + bs.length = 20 := by
    rw [romIndex, Config.pow10N]
    omega
  exact accumFrom_toNat hlast h

theorem accum_eq_ofNat_numeral {bs : List Byte} (hlen : bs.length ≤ 20) (h : ∀ c ∈ bs, digitByte c) :
    accum bs = BitVec.ofNat 64 (numeral bs) :=
  BitVec.eq_of_toNat_eq (by rw [accum_toNat hlen h, BitVec.toNat_ofNat])

theorem numeral_leadingZeros (n : Nat) (bs : List Byte) : numeral (List.replicate n 0x30#8 ++ bs) = numeral bs := by
  induction n with
  | zero => rfl
  | succ n ih =>
    rw [List.replicate_succ, List.cons_append, numeral_cons, ih]
    simp

theorem accum_leadingZeros {n : Nat} {bs : List Byte} (hlen : n + bs.length ≤ 20) (h : ∀ c ∈ bs, digitByte c) :
    accum (List.replicate n 0x30#8 ++ bs) = BitVec.ofNat 64 (numeral bs) := by
  have hdigits : ∀ c ∈ List.replicate n 0x30#8 ++ bs, digitByte c := by
    intro c hc
    obtain hzero | hbs := List.mem_append.1 hc
    · rw [List.eq_of_mem_replicate hzero]
      decide
    · exact h c hbs
  rw [accum_eq_ofNat_numeral (by simpa using hlen) hdigits, numeral_leadingZeros]

/-! ## The outcome of an untainted parse (R86, R87) -/

theorem parseOutcome_digits (checked : Bool) {bs : List Byte} (h : bs.all isDigit = true) :
    parseOutcome checked bs = .value (accum bs) := by
  rw [parseOutcome, if_pos h]

theorem parseOutcome_checked_nondigit {bs : List Byte} (h : ¬ bs.all isDigit = true) :
    parseOutcome true bs = .error .invalidDigit := by
  rw [parseOutcome, if_neg h, if_pos rfl]

theorem parseOutcome_unchecked_nondigit {bs : List Byte} (h : ¬ bs.all isDigit = true) :
    parseOutcome false bs = .value (Config.uncNondigit bs) := by
  rw [parseOutcome, if_neg h, if_neg Bool.false_ne_true]

/-- An unchecked parse ends in a value, whatever its bytes. -/
theorem parseOutcome_unchecked (bs : List Byte) : ∃ v, parseOutcome false bs = .value v := by
  by_cases h : bs.all isDigit = true
  · exact ⟨_, parseOutcome_digits false h⟩
  · exact ⟨_, parseOutcome_unchecked_nondigit h⟩

theorem drawnOutcome_unchecked (n : Nat) : drawnOutcome false n = .value (Config.drawnValue n) := rfl

theorem bytes_not_all_isDigit {s : State} {sl : Slice} (h : ∃ p, p < sl.length.toNat ∧ ¬ digitByte (sl.byte s p)) :
    ¬ (sl.bytes s).all isDigit = true := fun hall =>
  let ⟨p, hp, hbad⟩ := h
  hbad ((bytes_all_isDigit s sl).1 hall p hp)

/-! ## The body and its completions (R88 to R93) -/

variable {s t : State} {i : Instr} {f : Flight} {form : SliceForm}

/-- With every check of R137 passed and no Host write to the slice, a parse command completes with the outcome of its bytes. -/
theorem exec_parse_untainted {sl : Slice} (h : ParseInFlight i f sl s) (hlen : sl.lengthOk) (hadm : sl.admitted s)
    (htaint : f.taint = false) :
    ∃ checked, exec i s = .next (s.complete (parseOutcome checked (sl.bytes s))) ∧
      (checked = true ↔ i = .parsecL ∨ i = .parsecE) := by
  obtain ⟨hf, h0, h1, hsl⟩ := h
  obtain ⟨checked, form, hexec, rfl, hchecked⟩ := exec_parse hsl
  refine ⟨checked, ?_, hchecked⟩
  rw [hexec s hf]
  simp [parseBody, h0, h1, lencheck_none.2 hlen, (admitsSlice_iff s _).2 hadm, htaint, sliceBytes_eq]

theorem exec_parse_unwritten (hf : InFlight f s) (hi : i = .parsecL ∨ i = .parsecE ∨ i = .parseuL ∨ i = .parseuE)
    (hu : f.la0.unwritten = true ∨ f.la1.unwritten = true) :
    exec i s = .next { s with faultRecord := some .unwrittenOperand } := by
  rw [exec_unwritten hf (.inr ⟨hi, hu⟩), recordFault_eq hf.2]

theorem lencheck_ne_invalidDigit (l : Word) : lencheck l ≠ some .invalidDigit := by
  simp only [lencheck, lencheckWith, Config.foldEmpty]
  split_ifs <;> simp

theorem ErrorCode.code_eq_one {e : ErrorCode} (h : e.code = 1#4) : e = .invalidDigit := by
  cases e with
  | invalidDigit => rfl
  | lengthOutOfRange | emptyInput | illegalCommand => exact absurd h (by decide)

/-- The unchecked body that ends the command leaves a code other than INVALID_DIGIT's: its only errors are those of the length
check (R85, R136). -/
theorem parseBody_unchecked_err (hf : InFlight f s) (h : parseBody false form f s = .next t) (hend : t.flight = none) :
    t.err ≠ 1#4 := by
  obtain ⟨-, hb⟩ | ⟨-, ⟨e, hlen, hb⟩ | ⟨-, ⟨-, hb⟩ | ⟨-, -, hb⟩ | ⟨-, -, hb⟩⟩⟩ := parseBody_cases false form f s <;>
    rw [hb] at h <;> cases h
  · exact absurd (hf.1.symm.trans hend) nofun
  · exact fun hcode => lencheck_ne_invalidDigit _ (hlen.trans (congrArg some (ErrorCode.code_eq_one hcode)))
  · rw [drawnOutcome_unchecked]
    exact (by decide : noError ≠ 1#4)
  · obtain ⟨v, hv⟩ := parseOutcome_unchecked (sliceBytes s.memory (sliceOf form f.la0.value f.la1.value))
    rw [hv]
    exact (by decide : noError ≠ 1#4)

/-- A completion clears the latches, so it does not matter which ones it finds. -/
theorem State.complete_withFlight (o : CommandOutcome) (g : Option Flight) (s : State) :
    State.complete o { s with flight := g } = s.complete o := by
  cases o <;> rfl

/-- The body on (B, E) with the end exclusive is the body on (B, E - B) with the length (R66, R67, R92). -/
theorem parseBody_beginEnd (checked : Bool) (g : Option Flight) (h0 : f.la0.unwritten = false) (h1 : f.la1.unwritten = false) :
    parseBody checked .beginEnd f s =
      parseBody checked .beginLength { f with la1 := ⟨f.la1.value - f.la0.value, f.la1.unwritten⟩ }
        { s with flight := g } := by
  cases hlen : lencheck (f.la1.value - f.la0.value) with
  | some e => simp [parseBody, sliceOf, h0, h1, hlen, State.complete_withFlight]
  | none =>
    cases hadm : s.platform.admitsSlice ⟨f.la0.value, f.la1.value - f.la0.value⟩ <;>
      simp [parseBody, sliceOf, h0, h1, hlen, hadm, State.complete_withFlight]

/-- The two kinds of parse differ only in the outcome of a slice with a byte that is no digit, and of a tainted one. -/
theorem parseBody_unchecked_eq_checked (htaint : f.taint = false)
    (h : ¬ (sliceOf form f.la0.value f.la1.value).lengthOk ∨
      ∀ p, p < (sliceOf form f.la0.value f.la1.value).length.toNat →
        digitByte ((sliceOf form f.la0.value f.la1.value).byte s p)) :
    parseBody false form f s = parseBody true form f s := by
  cases hlen : lencheck (sliceOf form f.la0.value f.la1.value).length with
  | some e => simp only [parseBody, hlen]
  | none =>
    have hdigits := (bytes_all_isDigit s _).2 (h.resolve_left (not_not.2 (lencheck_none.1 hlen)))
    simp only [parseBody, htaint, sliceBytes_eq, parseOutcome_digits _ hdigits, Bool.false_eq_true, if_false]

end Sys2Proof.Machine
end

section
open Sys2Proof Sys2Proof.Machine

/-- Settles O27: the digit test by the byte's range, in which the digit value does not wrap. -/
theorem digitTestAndValue : Obligations.DigitTestAndValue := by
  refine fun c => ⟨isDigit_iff_digitByte c, fun hdigit => ?_⟩
  have hc := (isDigit_iff_digitByte c).1 hdigit
  have hvalue := digitValue_toNat hc
  exact ⟨hvalue, by omega⟩

/-- Settles O30: the accumulation modulo 2^64, and a numeral of at most 19 digits is below 10^19. -/
theorem accumulationIsTheNumeralModulo : Obligations.AccumulationIsTheNumeralModulo := by
  intro bs _ hlen hdigits
  have haccum := accum_toNat hlen hdigits
  refine ⟨haccum, fun hfits => by omega, fun hlen19 => ?_⟩
  have hpow : 10 ^ bs.length ≤ 10 ^ 19 := Nat.pow_le_pow_right (by decide) hlen19
  have hlt := numeral_lt hdigits
  omega

/-- Settles O31: both sequencings start at the entry of the first digit, and the grouped one adds what ACCUM adds. -/
theorem groupedAccumulationAgrees : Obligations.GroupedAccumulationAgrees := fun bs _ _ =>
  (accumGrouped_eq (20 - bs.length) 0#64 bs).trans (BitVec.zero_add _)

/-- Settles O32: zeros before a numeral leave it, and with no digit after them its value is 0. -/
theorem leadingZerosLeaveTheValue : Obligations.LeadingZerosLeaveTheValue := by
  refine ⟨fun n _ hn => ?_, fun n bs _ hlen hdigits => ?_⟩
  · have hzeros := accum_leadingZeros (n := n) (bs := []) hn nofun
    rwa [List.append_nil] at hzeros
  · rw [accum_leadingZeros hlen hdigits, accum_eq_ofNat_numeral (by omega) hdigits]

/-- Settles O29: the outcome of a digit slice is its accumulation, in both kinds of command. -/
theorem parseOfDigitsIsTheNumeral : Obligations.ParseOfDigitsIsTheNumeral := by
  intro i s f sl hparse hlen hadm htaint hdigits
  obtain ⟨checked, hexec, -⟩ := exec_parse_untainted hparse hlen hadm htaint
  have hall := (bytes_all_isDigit s sl).2 hdigits
  have hbytes : ∀ c ∈ sl.bytes s, digitByte c := fun c hc => (isDigit_iff_digitByte c).1 (List.all_eq_true.1 hall c hc)
  rw [hexec, parseOutcome_digits checked hall, accum_eq_ofNat_numeral (by rw [bytes_length]; exact hlen.2) hbytes]
  rfl

/-- Settles O33: the outcome of a checked parse with a byte that is no digit, and the codes an unchecked one can end with. -/
theorem invalidDigitFromCheckedCommandsOnly : Obligations.InvalidDigitFromCheckedCommandsOnly := by
  constructor
  · intro i s f sl hi hparse hlen hadm htaint hbad
    obtain ⟨checked, hexec, hchecked⟩ := exec_parse_untainted hparse hlen hadm htaint
    rw [hexec, hchecked.2 hi, parseOutcome_checked_nondigit (bytes_not_all_isDigit hbad)]
    rfl
  · rintro i s t (rfl | rfl) hexec hend <;>
    · obtain ⟨f, hf, hbody⟩ := unitStep_next hexec
      exact parseBody_unchecked_err hf hbody hend

/-- Settles O34: an unchecked parse with a byte that is no digit ends in the free value of its bytes. -/
theorem uncheckedNonDigitsGiveTheFreeValue : Obligations.UncheckedNonDigitsGiveTheFreeValue := by
  intro i s f sl hi hparse hlen hadm htaint hbad
  obtain ⟨checked, hexec, hchecked⟩ := exec_parse_untainted hparse hlen hadm htaint
  obtain rfl : checked = false := Bool.eq_false_of_not_eq_true (mt hchecked.1 (by obtain rfl | rfl := hi <;> simp))
  rw [hexec, parseOutcome_unchecked_nondigit (bytes_not_all_isDigit hbad)]
  rfl

/-- Settles O39: the bodies on (B, E) and (B, E - B) are one, and each command records an unwritten operand of its own latches. -/
theorem callingConventionsAgree : Obligations.CallingConventionsAgree := by
  intro s f hf s'
  have hf' : InFlight { f with la1 := ⟨f.la1.value - f.la0.value, f.la1.unwritten⟩ } s' := ⟨rfl, hf.2⟩
  have hagree (checked : Bool) (h0 : f.la0.unwritten = false) (h1 : f.la1.unwritten = false) :
      unitStep (parseBody checked .beginEnd) s = unitStep (parseBody checked .beginLength) s' := by
    rw [unitStep_eq hf, unitStep_eq hf', parseBody_beginEnd checked _ h0 h1]
  exact ⟨fun h0 h1 => ⟨hagree true h0 h1, hagree false h0 h1⟩,
    fun hu => ⟨exec_parse_unwritten hf (by simp) hu, exec_parse_unwritten hf' (by simp) hu,
      exec_parse_unwritten hf (by simp) hu, exec_parse_unwritten hf' (by simp) hu⟩⟩

/-- Settles O40: the two bodies agree there, in each slice form. -/
theorem checkedAgreesWithUncheckedOnDigits : Obligations.CheckedAgreesWithUncheckedOnDigits := by
  intro s f hf htaint
  have hagree (form : SliceForm) (sl : Slice) (hsl : some (sliceOf form f.la0.value f.la1.value) = some sl)
      (h : ¬ sl.lengthOk ∨ ∀ p, p < sl.length.toNat → digitByte (sl.byte s p)) :
      unitStep (parseBody false form) s = unitStep (parseBody true form) s := by
    cases hsl
    rw [unitStep_eq hf, unitStep_eq hf, parseBody_unchecked_eq_checked htaint h]
  exact ⟨hagree .beginLength, hagree .beginEnd⟩

/-- Settles O54: a command completes, with or without a draw, or records the fault that none was recorded before. -/
theorem commandFrame : Obligations.CommandFrame := by
  intro i s t hi hexec
  obtain ⟨f, hf, rfl | ⟨o, rfl | rfl⟩⟩ := exec_command_next hi hexec
  · exact ⟨rfl, .inr (recordFault_eq hf.2 _)⟩
  · exact ⟨by cases o <;> rfl, .inl (by simp)⟩
  · exact ⟨by cases o <;> rfl, .inl (by simp)⟩

end

section
/-! Proofs of family 41_clz: the count of CLZ64 by the highest set bit of its operand, and how CLZ64 completes
(spec/41_clz.md R101 to R109). -/

namespace Sys2Proof.Machine

/-! ## The highest set bit of a word, as its floor(log2) -/

theorem log2_toNat_eq {w : Nat} {x : BitVec w} {m : Nat} (hset : x.getLsbD m = true)
    (habove : ∀ k, m < k → x.getLsbD k = false) : Nat.log2 x.toNat = m := by
  have hle : 2 ^ m ≤ x.toNat := Nat.ge_two_pow_of_testBit hset
  have hlt : x.toNat < 2 ^ (m + 1) := Nat.lt_pow_two_of_testBit _ habove
  exact (Nat.log2_eq_iff (Nat.lt_of_lt_of_le (Nat.two_pow_pos m) hle).ne').2 ⟨hle, hlt⟩

theorem getLsbD_log2 {w : Nat} {x : BitVec w} (h : x ≠ 0#w) : x.getLsbD (Nat.log2 x.toNat) = true :=
  Nat.testBit_log2 fun hzero => h (BitVec.eq_of_toNat_eq (hzero.trans (Nat.zero_mod _).symm))

theorem getLsbD_above_log2 {w : Nat} (x : BitVec w) {k : Nat} (h : Nat.log2 x.toNat < k) : x.getLsbD k = false :=
  Nat.testBit_lt_two_pow (Nat.lt_of_lt_of_le Nat.lt_log2_self (Nat.pow_le_pow_right Nat.two_pos h))

/-! ## The two halves of the operand (R104) -/

theorem getLsbD_highHalf (x : Word) (k : Nat) : (x.extractLsb' 32 32).getLsbD k = x.getLsbD (32 + k) := by
  by_cases hk : k < 32
  · simp [hk]
  · rw [BitVec.getLsbD_of_ge _ _ (by omega), BitVec.getLsbD_of_ge _ _ (by omega)]

theorem getLsbD_lowHalf (x : Word) {k : Nat} (hk : k < 32) : (x.extractLsb' 0 32).getLsbD k = x.getLsbD k := by
  simp [hk]

/-- With its high half 0, a word has no bit set from 32 on. -/
theorem getLsbD_of_highHalf_eq_zero {x : Word} (h : x.extractLsb' 32 32 = 0#32) {k : Nat} (hk : 32 ≤ k) :
    x.getLsbD k = false := by
  obtain ⟨j, rfl⟩ := Nat.exists_eq_add_of_le hk
  rw [← getLsbD_highHalf, h, BitVec.getLsbD_zero]

theorem lowHalf_ne_zero {x : Word} (hx : x ≠ 0#64) (h : x.extractLsb' 32 32 = 0#32) : x.extractLsb' 0 32 ≠ 0#32 := by
  intro hlow
  refine hx (BitVec.eq_of_getLsbD_eq fun k _ => ?_)
  by_cases hk : k < 32
  · rw [← getLsbD_lowHalf x hk, hlow, BitVec.getLsbD_zero, BitVec.getLsbD_zero]
  · rw [getLsbD_of_highHalf_eq_zero h (by omega), BitVec.getLsbD_zero]

theorem log2_of_highHalf_ne_zero {x : Word} (h : x.extractLsb' 32 32 ≠ 0#32) :
    Nat.log2 x.toNat = 32 + msb (x.extractLsb' 32 32) := by
  refine log2_toNat_eq ?_ fun k hk => ?_
  · rw [← getLsbD_highHalf, msb_set h]
  · obtain ⟨j, rfl⟩ := Nat.exists_eq_add_of_le (show 32 ≤ k by omega)
    rw [← getLsbD_highHalf, msb_above _ (by omega)]

theorem log2_of_highHalf_eq_zero {x : Word} (hx : x ≠ 0#64) (h : x.extractLsb' 32 32 = 0#32) :
    Nat.log2 x.toNat = msb (x.extractLsb' 0 32) := by
  have hmsb := msb_le (x.extractLsb' 0 32)
  refine log2_toNat_eq ?_ fun k hk => ?_
  · rw [← getLsbD_lowHalf x (by omega), msb_set (lowHalf_ne_zero hx h)]
  · by_cases hk32 : k < 32
    · rw [← getLsbD_lowHalf x hk32, msb_above _ hk]
    · exact getLsbD_of_highHalf_eq_zero h (by omega)

/-! ## The count of CLZ64 (R105 to R108) -/

theorem clz64Count_zero : clz64Count 0#64 = 64#32 := by decide

/-- The two halves give one formula: 63 less the index of the highest set bit (R106). -/
theorem clz64Count_of_ne_zero {x : Word} (hx : x ≠ 0#64) : (clz64Count x).toNat = 63 - Nat.log2 x.toNat := by
  rw [clz64Count_toNat]
  by_cases h : x.extractLsb' 32 32 = 0#32
  · rw [if_neg (not_not.2 h), if_pos (lowHalf_ne_zero hx h), log2_of_highHalf_eq_zero hx h]
  · rw [if_pos h, log2_of_highHalf_ne_zero h]
    omega

theorem clz64Count_le (x : Word) : (clz64Count x).toNat ≤ 64 := by
  rw [clz64Count_toNat]
  split_ifs <;> omega

/-- The count is the number of leading zero bits: so many top bits are 0, and the next one, if there is one, is 1 (R108). -/
theorem clz64Count_leadingZeros (x : Word) :
    (∀ k, k < (clz64Count x).toNat → x.getMsbD k = false) ∧
    ((clz64Count x).toNat < 64 → x.getMsbD (clz64Count x).toNat = true) := by
  by_cases hx : x = 0#64
  · rw [hx, clz64Count_zero]
    exact ⟨fun k _ => BitVec.getMsbD_zero, fun h => absurd h (by decide)⟩
  · have hset := getLsbD_log2 hx
    have hlog : Nat.log2 x.toNat < 64 := BitVec.lt_of_getLsbD hset
    rw [clz64Count_of_ne_zero hx]
    refine ⟨fun k hk => ?_, fun hn => ?_⟩
    · rw [BitVec.getMsbD_eq_getLsbD, getLsbD_above_log2 x (by omega), Bool.and_false]
    · rw [BitVec.getMsbD_eq_getLsbD, show 64 - 1 - (63 - Nat.log2 x.toNat) = Nat.log2 x.toNat by omega, hset,
        decide_eq_true hn, Bool.and_true]

theorem clz64Count_of_topBit {x : Word} (h : x.getLsbD 63 = true) : clz64Count x = 0#32 := by
  have hlog : Nat.log2 x.toNat = 63 := log2_toNat_eq h fun k hk => BitVec.getLsbD_of_ge x k hk
  have hx : x ≠ 0#64 := by
    rintro rfl
    exact absurd h (by decide)
  exact BitVec.eq_of_toNat_eq (by rw [clz64Count_of_ne_zero hx, hlog]; rfl)

/-! ## The completion of CLZ64 (R104) -/

/-- The value CLZ64 completes with. -/
def clz64Value (x : Word) : Word := (clz64Count x).setWidth 64

theorem clz64Value_toNat (x : Word) : (clz64Value x).toNat = (clz64Count x).toNat :=
  BitVec.toNat_setWidth_of_le (by decide)

/-- With its operand written CLZ64 completes, whatever else the state and the latches hold. -/
theorem exec_clz64 {s : State} {f : Flight} (hf : InFlight f s) (h0 : f.la0.unwritten = false) :
    exec .clz64 s = .next (s.complete (.value (clz64Value f.la0.value))) := by
  rw [exec, execClz64, unitStep_eq hf, if_neg (by simp [h0]), clz64Value]

end Sys2Proof.Machine
end

section
open Sys2Proof Sys2Proof.Machine

/-- Settles O21: n is the count itself. -/
theorem clzResultIsLeadingZeroCount : Obligations.ClzResultIsLeadingZeroCount := by
  intro s f hf h0
  refine ⟨(clz64Count f.la0.value).toNat, ?_, clz64Count_le _, clz64Count_leadingZeros _⟩
  rw [exec_clz64 hf h0, clz64Value, BitVec.ofNat_toNat]
  rfl

/-- Settles O22: the count by log2, and log2 by the half that is not zero. -/
theorem clzOfNonzeroIsByHighestBit : Obligations.ClzOfNonzeroIsByHighestBit := by
  intro s t f hf h0 hx hexec
  obtain rfl := Host.Outcome.next.inj ((exec_clz64 hf h0).symm.trans hexec)
  have hcount := (clz64Value_toNat f.la0.value).trans (clz64Count_of_ne_zero hx)
  refine ⟨hcount, fun hhigh => ?_, fun hlow => ?_⟩
  · have hlog := log2_of_highHalf_ne_zero hhigh
    exact ⟨hlog, hcount.trans (by omega)⟩
  · have hlog := log2_of_highHalf_eq_zero hx hlow
    exact ⟨hlog, hcount.trans (by omega)⟩

/-- Settles O23: the count is at most 64, so it fits in seven bits. -/
theorem clzResultInRange : Obligations.ClzResultInRange := by
  intro s f hf h0
  have hle : (clz64Value f.la0.value).toNat ≤ 64 := (clz64Value_toNat _).trans_le (clz64Count_le _)
  refine ⟨_, exec_clz64 hf h0, hle, BitVec.eq_of_toNat_eq ?_⟩
  change ((clz64Value f.la0.value).extractLsb' 7 57).toNat = 0
  rw [BitVec.extractLsb'_toNat, Nat.shiftRight_eq_div_pow, Nat.div_eq_of_lt (by omega), Nat.zero_mod]

/-- Settles O25: the search from bit 31 downward stops at the largest index of a set bit. -/
theorem clzPrimitiveIsThirtyOneMinusMsb : Obligations.ClzPrimitiveIsThirtyOneMinusMsb :=
  fun v hv => ⟨clz32_toNat hv, msb_le v, msb_set hv, fun _ => msb_above v⟩

/-- Settles O24: the count at 0, and the count where log2 is 63. -/
theorem clzOfZeroAndOfTopBit : Obligations.ClzOfZeroAndOfTopBit := by
  refine fun s f hf h0 => ⟨fun hzero => ⟨_, exec_clz64 hf h0, ?_⟩, fun htop => ⟨_, exec_clz64 hf h0, ?_⟩⟩
  · rw [hzero, clz64Value, clz64Count_zero]
    rfl
  · rw [clz64Value, clz64Count_of_topBit htop]
    rfl

/-- Settles O26: in both states CLZ64 completes with the value of the same LA0. -/
theorem clzReadsOnlyItsOperand : Obligations.ClzReadsOnlyItsOperand := by
  intro s t f la1 m hf h0 hexec
  obtain rfl := Host.Outcome.next.inj ((exec_clz64 hf h0).symm.trans hexec)
  exact ⟨exec_clz64 (f := { f with la1 := la1 }) ⟨rfl, hf.2⟩ h0, rfl⟩

end

section
/-! Proofs of family 42_interface: the lifecycle of a command, the accesses to the registers and the Host's stores
(spec/42_interface.md R111 to R130). -/

namespace Sys2Proof.Machine

variable {s : State} {i : Instr} {f : Flight}

/-! ## Accept and drop (R111, R112) -/

theorem exec_wrCmd_busy (h : s.busy = true) (w : Word) : exec (.wrCmd w) s = .next s.dropCommand := by
  rw [exec, execWrCmd, if_pos h]

/-! ## The completion of a command that is not stuck (R113 to R116) -/

/-- A completion leaves RV = 1 exactly when it leaves ERR = 0: no error has the code 0 (R131). -/
theorem State.complete_rv_iff (o : CommandOutcome) (s : State) : (s.complete o).rv = true ↔ (s.complete o).err = noError := by
  cases o with
  | value v => simp
  | error e =>
    have hcode : e.code ≠ noError := by cases e <;> decide
    simp [hcode]

/-- With every check of R137 passed and a Host write to the slice, a parse command completes with a draw. -/
theorem exec_parse_tainted {sl : Slice} (h : ParseInFlight i f sl s) (hlen : sl.lengthOk) (hadm : sl.admitted s)
    (htaint : f.taint = true) :
    ∃ checked, exec i s = .next (s.complete (drawnOutcome checked s.draws)).countDraw ∧
      (checked = true ↔ i = .parsecL ∨ i = .parsecE) := by
  obtain ⟨hf, h0, h1, hsl⟩ := h
  obtain ⟨checked, form, hexec, rfl, hchecked⟩ := exec_parse hsl
  refine ⟨checked, ?_, hchecked⟩
  rw [hexec s hf]
  simp [parseBody, h0, h1, lencheck_none.2 hlen, (admitsSlice_iff s _).2 hadm, htaint]

/-- A drawn outcome is a value, or INVALID_DIGIT of a checked command (R113). -/
theorem drawnOutcome_cases (checked : Bool) (n : Nat) :
    (∃ v, drawnOutcome checked n = .value v) ∨ checked = true ∧ drawnOutcome checked n = .error .invalidDigit := by
  cases checked with
  | false => exact .inl ⟨_, drawnOutcome_unchecked n⟩
  | true => cases hdraw : Config.drawnInvalidDigit n <;> simp [drawnOutcome, hdraw]

/-- A parse command with both operands written completes, unless its length is in range and its slice is not admitted. -/
theorem exec_parse_ready {sl : Slice} (h : ParseInFlight i f sl s) (hready : sl.lengthOk → sl.admitted s) :
    ∃ o, exec i s = .next (s.complete o) ∨ exec i s = .next (s.complete o).countDraw := by
  obtain ⟨hf, h0, h1, hsl⟩ := h
  obtain ⟨checked, form, hexec, rfl, -⟩ := exec_parse hsl
  rw [hexec s hf]
  obtain ⟨hu, -⟩ | ⟨-, ⟨e, -, hb⟩ | ⟨hlen, ⟨hrejected, -⟩ | ⟨-, -, hb⟩ | ⟨-, -, hb⟩⟩⟩ := parseBody_cases checked form f s
  · simp [h0, h1] at hu
  · exact ⟨_, .inl hb⟩
  · have hadm := (admitsSlice_iff s _).2 (hready (lencheck_none.1 hlen))
    exact absurd (hrejected.symm.trans hadm) nofun
  · exact ⟨_, .inr hb⟩
  · exact ⟨_, .inl hb⟩

/-- A command with both operands written completes, unless it is a parse stuck on its slice (R50, R113). -/
theorem exec_command_ready (hi : isCommand i = true) (hf : InFlight f s) (h0 : f.la0.unwritten = false)
    (h1 : f.la1.unwritten = false) (hready : ∀ sl, commandSlice i f = some sl → sl.lengthOk → sl.admitted s) :
    ∃ o, exec i s = .next (s.complete o) ∨ exec i s = .next (s.complete o).countDraw := by
  cases hsl : commandSlice i f with
  | some sl => exact exec_parse_ready ⟨hf, h0, h1, hsl⟩ (hready sl hsl)
  | none =>
    obtain rfl | ⟨w, rfl⟩ : i = .clz64 ∨ ∃ w, i = .illegal w := by cases i <;> simp_all [isCommand, commandSlice]
    · exact ⟨_, .inl (exec_clz64 hf h0)⟩
    · exact ⟨_, .inl (exec_illegal hf w)⟩

/-! ## A finished run (R129) -/

theorem State.finished_iff (s : State) :
    s.finished = true ↔ s.host.rest = [] ∧ s.busy = false ∧ s.faultRecord = none ∧ s.refusalMark = false := by
  simp [State.finished, State.clean, and_assoc]

/-- With no command in flight the Unit's turn passes. -/
theorem unitTurn_idle (hmark : s.refusalMark = false) (hidle : s.busy = false) : unitTurn s = .next s := by
  rw [unitTurn, if_neg (by simp [hmark]), State.busy_eq_false.1 hidle]

/-- With no turn listed and no Host line left the step is the Unit's. -/
theorem step_no_line (hturns : s.turns = []) (hrest : s.host.rest = []) : step s = unitTurn s := by
  simp [step, nextStep, hturns, hrest]

/-! ## Reads of the registers (R119, R121) -/

theorem readMarked_written {r : MarkedReg} (h : r.unwritten = false) (s : State) :
    readMarked r s = .next (s.setReadData r.value) := by
  rw [readMarked, if_neg (by simp [h])]

theorem readMarked_unwritten {r : MarkedReg} (h : r.unwritten = true) (s : State) :
    readMarked r s =
      .next ((s.recordFault .unwrittenRegister).setReadData (Config.unwrittenValue s.draws)).countDraw := by
  rw [readMarked, if_pos h]

/-! ## The layout of STATUS (R123) -/

/-- The bits of STATUS from bit 0 upward; above ERR there are only zeros, as above any four-bit value. -/
theorem State.statusWord_getLsbD (s : State) (k : Nat) :
    s.statusWord.getLsbD k =
      match k with
      | 0 => s.busy
      | 1 => s.rv
      | 2 => s.drop
      | 3 => false
      | n + 4 => s.err.getLsbD n := by
  have hbits : s.statusWord.getLsbD k =
      (0#56 ++ s.err ++ 0#1 ++ BitVec.ofBool s.drop ++ BitVec.ofBool s.rv ++ BitVec.ofBool s.busy).getLsbD k := rfl
  simp only [hbits, BitVec.getLsbD_append]
  match k with
  | 0 | 1 | 2 | 3 => simp
  | n + 4 => simpa using BitVec.lt_of_getLsbD

/-! ## The Host's stores (R55, R130) -/

/-- A store line outside the window is a Host write of the value's low byte. -/
theorem hostLine_store_outside {a : Expr} (h : s.platform.window.contains (a.eval s.host.vars) = false) (v : Expr) :
    hostLine (.store a v) s = .next (s.hostWrite (a.eval s.host.vars) ((v.eval s.host.vars).setWidth 8)) := by
  rw [hostLine, byteAccess_outside h]

end Sys2Proof.Machine
end

section
open Sys2Proof Sys2Proof.Machine

/-- Settles O20: the Unit's turn runs the command, which is not stuck, and a completion ends it. -/
theorem readyCommandCompletesAtTheUnitTurn : Obligations.ReadyCommandCompletesAtTheUnitTurn := by
  intro s f ts hf hmark hturns h0 h1 hready
  let s' : State := { s with turns := ts }
  have hf' : InFlight f s' := hf
  obtain ⟨o, hexec⟩ := exec_command_ready (isCommand_decodeCommand f.lop) hf' h0 h1 hready
  have hstep : step s = exec (decodeCommand f.lop) s' := step_unit hmark hturns hf.1
  have hfault : (s'.complete o).faultRecord = none := (State.complete_faultRecord o s').trans hf.2
  have hbusy := State.complete_busy o s'
  have hrv := State.complete_rv_iff o s'
  obtain hexec | hexec := hexec <;> exact ⟨_, hstep.trans hexec, hbusy, hfault, hrv⟩

/-- Settles O38: the draw is a value, or for a checked command INVALID_DIGIT. -/
theorem taintedParseCompletesWithADraw : Obligations.TaintedParseCompletesWithADraw := by
  intro i s f sl hparse hlen hadm htaint
  obtain ⟨checked, hexec, hchecked⟩ := exec_parse_tainted hparse hlen hadm htaint
  obtain ⟨v, hdrawn⟩ | ⟨hcheck, hdrawn⟩ := drawnOutcome_cases checked s.draws <;> rw [hdrawn] at hexec
  · exact .inl ⟨v, hexec⟩
  · exact .inr ⟨hchecked.1 hcheck, hexec⟩

/-- Settles O49: the store line is one Host write, which reaches the command in flight through TAINT alone. -/
theorem hostStoreChangesOneByte : Obligations.HostStoreChangesOneByte := by
  intro s ts a v lines hmark hturns hrest hwindow
  have hstore := hostLine_store_outside (s := State.setRest lines { s with turns := ts }) hwindow v
  refine ⟨_, (step_host hmark hturns hrest).trans hstore, ?_, fun a' hne => ?_, rfl, rfl, ?_, fun f hf => ?_⟩
  · exact readByte_writeByte_self _ _ _
  · exact readByte_writeByte_ne hne _ _
  · simp [State.busy]
  · exact ⟨(f.hostWrote (a.eval s.host.vars)).taint, by simp [hf, Flight.hostWrote]⟩

/-- Settles O8: every command word decodes to a well-formed instruction, and the Unit's turn runs it. -/
theorem unitTurnRunsTheCommandInFlight : Obligations.UnitTurnRunsTheCommandInFlight := by
  intro s f ts hf hmark hturns
  obtain ⟨hwf, -⟩ := decodeCommand_roundTrip f.lop
  exact ⟨hwf, step_unit hmark hturns hf⟩

/-- Settles O13: a finished run has nothing in flight, so its step is the Unit's turn, and that passes. -/
theorem finishedRunIsIdle : Obligations.FinishedRunIsIdle := by
  refine fun s => ⟨fun hopen => Bool.eq_false_of_not_eq_true fun hfin => ?_, fun hfin hturns => ?_⟩
  all_goals obtain ⟨hrest, hidle, hfault, hmark⟩ := s.finished_iff.1 hfin
  · simp [hrest, hidle, hfault, hmark] at hopen
  · rw [step_no_line hturns hrest, unitTurn_idle hmark hidle]

/-- Settles O15: the accepted state is the one R111 writes out. -/
theorem commandWriteWhileIdleIsAccepted : Obligations.CommandWriteWhileIdleIsAccepted :=
  fun w _ hidle => ⟨_, exec_wrCmd_idle hidle w, rfl, rfl, rfl⟩

/-- Settles O16: while BUSY the word is dropped. -/
theorem commandWriteWhileBusyIsDropped : Obligations.CommandWriteWhileBusyIsDropped :=
  fun w _ hbusy => exec_wrCmd_busy hbusy w

/-- Settles O42: the write is the update of the one register, and the read finds it written. -/
theorem operandRegistersHoldWhatIsWritten : Obligations.OperandRegistersHoldWhatIsWritten :=
  fun _ _ => ⟨rfl, rfl, ⟨_, readMarked_written (r := .written _) rfl _, rfl⟩, ⟨_, readMarked_written (r := .written _) rfl _, rfl⟩⟩

/-- Settles O43: all three registers are read the same way. -/
theorem readOfWrittenRegisterReturnsItsValue : Obligations.ReadOfWrittenRegisterReturnsItsValue :=
  fun s => ⟨fun h => readMarked_written h s, fun h => readMarked_written h s, fun h => readMarked_written h s⟩

/-- Settles O44: the read records the fault where none is recorded yet, and takes one free value. -/
theorem readOfUnwrittenRegisterIsRecorded : Obligations.ReadOfUnwrittenRegisterIsRecorded := by
  intro i s hi
  have hexec : exec i s =
      .next ((s.recordFault .unwrittenRegister).setReadData (Config.unwrittenValue s.draws)).countDraw := by
    obtain ⟨rfl, h⟩ | ⟨rfl, h⟩ | ⟨rfl, h⟩ := hi <;> exact readMarked_unwritten h s
  exact ⟨_, hexec, rfl, fun h => by simp [h], fun r h => by simp [h]⟩

/-- Settles O45: the fields are cut out of the bits of `statusWord`, and the bits above ERR are those above a four-bit value. -/
theorem statusReadHasItsLayout : Obligations.StatusReadHasItsLayout := by
  intro s
  have hbits := s.statusWord_getLsbD
  refine ⟨s.statusWord, rfl, hbits 0, hbits 1, hbits 2, hbits 3,
    BitVec.eq_of_getLsbD_eq fun k hk => ?_, BitVec.eq_of_getLsbD_eq fun k hk => ?_⟩
  · rw [BitVec.getLsbD_extractLsb', decide_eq_true hk, Bool.true_and, Nat.add_comm, hbits]
  · have hzero : s.statusWord.getLsbD ((4 + k) + 4) = false :=
      (hbits _).trans (BitVec.getLsbD_of_ge _ _ (Nat.le_add_right 4 k))
    rw [BitVec.getLsbD_extractLsb', show 8 + k = (4 + k) + 4 by omega, hzero, BitVec.getLsbD_zero, Bool.and_false]

/-- Settles O46: each constant read sets what the bus carries, each ignored write answers the state it found. -/
theorem constantReadsAndIgnoredWrites : Obligations.ConstantReadsAndIgnoredWrites :=
  fun _ _ _ => ⟨rfl, rfl, rfl, rfl, rfl, rfl, rfl⟩

end

section
/-! Proofs of family 60_exceptions: the length errors, the outcome that stays until the next accept, and the two records of
R143, the fault and the refusal mark (spec/60_exceptions.md R134, R135, R143, R145). -/

namespace Sys2Proof.Machine

variable {s t : State} {i : Instr} {f : Flight}

/-! ## The length check (R77, R134, R135) -/

theorem lencheck_empty {l : Word} (h : l.toNat = 0) : lencheck l = some .emptyInput := by
  rw [lencheck, lencheckWith, if_pos h]
  rfl

theorem lencheck_tooLong {l : Word} (h : 20 < l.toNat) : lencheck l = some .lengthOutOfRange := by
  have hne : l.toNat ≠ 0 := by omega
  have hlong : l.toNat > Config.maxLen := h
  rw [lencheck, lencheckWith, if_neg hne, if_pos hlong]

/-- A length error is the completion, before admission, TAINT and the slice's bytes are looked at (R137). -/
theorem exec_parse_lengthError {sl : Slice} {e : ErrorCode} (h : ParseInFlight i f sl s)
    (hlen : lencheck sl.length = some e) : exec i s = .next (s.complete (.error e)) := by
  obtain ⟨hf, h0, h1, hsl⟩ := h
  obtain ⟨checked, form, hexec, rfl, -⟩ := exec_parse hsl
  rw [hexec s hf]
  simp [parseBody, h0, h1, hlen]

/-! ## The outcome of the last command (R145) -/

/-- No command touches DROP (R115, R116). -/
theorem exec_command_drop (hi : isCommand i = true) (h : exec i s = .next t) : t.drop = s.drop := by
  obtain ⟨f, -, rfl | ⟨o, rfl | rfl⟩⟩ := exec_command_next hi h
  · rfl
  · exact State.complete_drop o s
  · exact State.complete_drop o s

/-- A Host access leaves DROP, ERR and RV, or it is a CMD write, which while BUSY sets DROP (R112). -/
theorem exec_access_outcome (hi : isCommand i = false) (h : exec i s = .next t) :
    (t.drop = s.drop ∧ t.err = s.err ∧ t.rv = s.rv) ∨ ∃ w, i = .wrCmd w ∧ (s.busy = true → t.drop = true) := by
  obtain ⟨-, -, -, -, -, -, -, ⟨hrv, hdrop, herr, -⟩ | ⟨w, rfl⟩, -⟩ := hostAccessFrame i s t hi h
  · exact .inl ⟨hdrop, herr, hrv⟩
  · refine .inr ⟨w, rfl, fun hbusy => ?_⟩
    obtain rfl := Host.Outcome.next.inj (h.symm.trans (exec_wrCmd_busy hbusy w))
    rfl

/-! ## The fault record (R143) -/

/-- The first fault stays: a second one is not recorded over it. -/
theorem State.recordFault_recorded {r : RecordedFault} (hr : s.faultRecord = some r) (r' : RecordedFault) :
    (s.recordFault r').faultRecord = some r := by
  simp [hr]

/-- No Host access clears or replaces a recorded fault. -/
theorem exec_access_faultRecord {r : RecordedFault} (hi : isCommand i = false) (hr : s.faultRecord = some r)
    (h : exec i s = .next t) : t.faultRecord = some r := by
  obtain ⟨u, hu, hcases⟩ := exec_access_next s hi
  obtain rfl := Host.Outcome.next.inj (h.symm.trans hu)
  obtain rfl | ⟨_, -, rfl⟩ | ⟨_, -, rfl⟩ | ⟨_, -, -, rfl⟩ | ⟨_, -, -, rfl⟩ | ⟨_, rfl⟩ | ⟨-, _, rfl⟩ | ⟨-, rfl⟩ := hcases
  case inr.inr.inr.inr.inr.inr.inl => exact State.recordFault_recorded hr _
  all_goals exact hr

/-! ## The refusal mark (R143) -/

theorem hostTurn_marked (h : s.refusalMark = true) : hostTurn s = .refused .refusalMarked := by
  rw [hostTurn, if_pos h]

theorem unitTurn_marked (h : s.refusalMark = true) : unitTurn s = .refused .refusalMarked := by
  rw [unitTurn, if_pos h]

end Sys2Proof.Machine
end

section
open Sys2Proof Sys2Proof.Machine

/-- Settles O18: a command leaves DROP and starts from BUSY = 1, and of the accesses only WR CMD touches the outcome, by setting
DROP while BUSY = 1. -/
theorem onlyAcceptClearsTheOutcome : Obligations.OnlyAcceptClearsTheOutcome := by
  intro i s t hexec
  cases hi : isCommand i with
  | true =>
    obtain ⟨hbusy, -⟩ := exec_command_flight hi hexec
    have hdrop := exec_command_drop hi hexec
    exact ⟨fun h1 h0 => by simp [hdrop, h1] at h0, fun hidle => by simp [hbusy] at hidle⟩
  | false =>
    obtain ⟨hdrop, herr, hrv⟩ | ⟨w, rfl, hdropped⟩ := exec_access_outcome hi hexec
    · exact ⟨fun h1 h0 => by simp [hdrop, h1] at h0, fun _ hchange => by simp [herr, hrv] at hchange⟩
    · refine ⟨fun _ h0 => ⟨w, rfl, Bool.eq_false_of_not_eq_true fun hbusy => ?_⟩, fun _ _ => ⟨w, rfl⟩⟩
      exact absurd ((hdropped hbusy).symm.trans h0) (by decide)

/-- Settles O35: the length check names the error, and the parse completes with its code. -/
theorem lengthErrorsOfParseCommands : Obligations.LengthErrorsOfParseCommands :=
  ⟨fun _ _ _ _ hparse => ⟨fun hempty => exec_parse_lengthError hparse (lencheck_empty hempty),
    fun hlong => exec_parse_lengthError hparse (lencheck_tooLong hlong)⟩, rfl⟩

/-- Settles O57: a command that answers a next state found no fault recorded, and an access keeps the first record. -/
theorem recordedFaultStaysAndHaltsTheUnit : Obligations.RecordedFaultStaysAndHaltsTheUnit := by
  refine fun i s r hr => ⟨fun t hexec => ?_, fun hi hbusy => ?_⟩
  · cases hi : isCommand i with
    | true =>
      obtain ⟨f, ⟨-, hnone⟩, -⟩ := exec_command_next hi hexec
      exact absurd (hr.symm.trans hnone) nofun
    | false => exact exec_access_faultRecord hi hr hexec
  · obtain ⟨f, hf⟩ := Option.isSome_iff_exists.1 hbusy
    exact exec_command_halted hi hf hr

/-- Settles O48: whichever agent the turn goes to, it is refused. -/
theorem markedStateHasNoStep : Obligations.MarkedStateHasNoStep := by
  intro s hmark hreset
  rw [step, nextStep]
  split
  · exact hostTurn_marked hmark
  · exact unitTurn_marked hmark
  · rename_i ts hturns
    exact absurd hturns (hreset ts)
  · rw [hostTurn_marked hmark, unitTurn_marked hmark, ite_self]

end

section
/-! Proofs of family 70_reset_and_hazards: the reset, and the writes of ARG0 and ARG1 under a command in flight
(spec/70_reset_and_hazards.md R146, R147, R154). -/

namespace Sys2Proof.Machine

variable {s : State} {g0 g1 : MarkedReg → MarkedReg}

/-! ## The reset (R146, R147) -/

/-- A reset has its step in every state, whatever is recorded or in flight. -/
theorem step_reset {ts : List Turn} (hturns : s.turns = .reset :: ts) :
    step s = .next (State.resetBlock { s with turns := ts }) := by
  simp only [step, nextStep, hturns]

/-- STATUS reads 0 when all its fields are 0 (R123). -/
theorem State.statusWord_eq_zero (hbusy : s.busy = false) (hrv : s.rv = false) (hdrop : s.drop = false) (herr : s.err = 0#4) :
    s.statusWord = 0#64 := by
  rw [State.statusWord, hbusy, hrv, hdrop, herr]
  rfl

/-! ## Other operand registers under the same state (R154) -/

/-- The state with ARG0 and ARG1 each put through a function: a write of one of them is the case of a constant and `id`. -/
def State.mapOperands (g0 g1 : MarkedReg → MarkedReg) (s : State) : State := { s with arg0 := g0 s.arg0, arg1 := g1 s.arg1 }

@[simp] theorem State.mapOperands_flight : (s.mapOperands g0 g1).flight = s.flight := rfl
@[simp] theorem State.mapOperands_faultRecord : (s.mapOperands g0 g1).faultRecord = s.faultRecord := rfl
@[simp] theorem State.mapOperands_memory : (s.mapOperands g0 g1).memory = s.memory := rfl
@[simp] theorem State.mapOperands_platform : (s.mapOperands g0 g1).platform = s.platform := rfl
@[simp] theorem State.mapOperands_draws : (s.mapOperands g0 g1).draws = s.draws := rfl

theorem exec_wrArg0_eq_mapOperands (v : Word) (s : State) :
    exec (.wrArg0 v) s = .next (s.mapOperands (fun _ => .written v) id) := rfl

theorem exec_wrArg1_eq_mapOperands (v : Word) (s : State) :
    exec (.wrArg1 v) s = .next (s.mapOperands id fun _ => .written v) := rfl

theorem State.complete_mapOperands (o : CommandOutcome) :
    (s.mapOperands g0 g1).complete o = (s.complete o).mapOperands g0 g1 := by
  cases o <;> rfl

/-- The Unit's step does not look at ARG0 and ARG1 if the command's body does not. -/
theorem unitStep_mapOperands {body : Flight → State → Result}
    (hbody : ∀ f, body f (s.mapOperands g0 g1) = mapNext (State.mapOperands g0 g1) (body f s)) :
    unitStep body (s.mapOperands g0 g1) = mapNext (State.mapOperands g0 g1) (unitStep body s) := by
  cases hf : s.flight with
  | none => rw [unitStep_idle hf, unitStep_idle (State.mapOperands_flight.trans hf), mapNext]
  | some f =>
    cases hr : s.faultRecord with
    | none =>
      have hin : InFlight f s := ⟨hf, hr⟩
      have hin' : InFlight f (s.mapOperands g0 g1) := hin
      rw [unitStep_eq hin, unitStep_eq hin', hbody]
    | some r =>
      rw [unitStep_halted hf hr,
        unitStep_halted (State.mapOperands_flight.trans hf) (State.mapOperands_faultRecord.trans hr), mapNext]

/-- A parse command takes its slice from the latches: each test, and the outcome, is the same on the other registers. -/
theorem parseBody_mapOperands (checked : Bool) (form : SliceForm) (f : Flight) :
    parseBody checked form f (s.mapOperands g0 g1) = mapNext (State.mapOperands g0 g1) (parseBody checked form f s) := by
  simp only [parseBody, State.mapOperands_platform, State.mapOperands_draws, State.mapOperands_memory,
    State.complete_mapOperands]
  split
  · rfl
  · split
    · rfl
    · split_ifs <;> rfl

/-- A command works on the latches alone (R64, R111), so it answers the same whatever ARG0 and ARG1 hold, and leaves them. -/
theorem exec_command_mapOperands {i : Instr} (hi : isCommand i = true) :
    exec i (s.mapOperands g0 g1) = mapNext (State.mapOperands g0 g1) (exec i s) := by
  cases i <;> simp only [isCommand, Bool.false_eq_true] at hi
  case clz64 =>
    simp only [exec, execClz64]
    refine unitStep_mapOperands fun f => ?_
    split
    · rfl
    · rw [State.complete_mapOperands, mapNext]
  case illegal w =>
    simp only [exec, execIllegal]
    exact unitStep_mapOperands fun _ => congrArg _ (State.complete_mapOperands _)
  case parseuL | parseuE | parsecL | parsecE => exact unitStep_mapOperands (parseBody_mapOperands _ _)

end Sys2Proof.Machine
end

section
open Sys2Proof Sys2Proof.Machine

/-- Settles O19: either write is a change of the operand registers only, which the command carries through to its end. -/
theorem operandWritesDoNotReachTheCommandInFlight : Obligations.OperandWritesDoNotReachTheCommandInFlight := by
  intro i s t v hi hexec
  have hmap (g0 g1) : exec i (s.mapOperands g0 g1) = .next (t.mapOperands g0 g1) := by
    rw [exec_command_mapOperands hi, hexec, mapNext]
  exact ⟨⟨_, exec_wrArg0_eq_mapOperands v s, hmap _ _⟩, ⟨_, exec_wrArg1_eq_mapOperands v s, hmap _ _⟩⟩

/-- Settles O11: the block is put at its reset values, field by field, and no step touches the ROM. -/
theorem resetGivesEveryResetValue : Obligations.ResetGivesEveryResetValue := fun _ _ hturns =>
  ⟨_, step_reset hturns, State.statusWord_eq_zero rfl rfl rfl rfl, rfl, rfl, rfl, rfl, rfl, rfl, rfl, rfl, rfl, rfl, rfl,
    ⟨_, rfl, rfl⟩, fun _ => rom_toNat⟩

/-- Settles O12: the reset empties the latches and keeps Host memory; the Unit is then idle and unmarked, and its turn passes. -/
theorem resetAbandonsTheCommandInFlight : Obligations.ResetAbandonsTheCommandInFlight := fun _ _ _ hturns _ =>
  ⟨_, step_reset hturns, rfl, rfl, fun _ => rfl, fun _ => unitTurn_idle rfl rfl⟩

/-- Settles O14: with no turn and no Host line the step is the Unit's, which passes with no command in flight. -/
theorem resetStateIsIdle : Obligations.ResetStateIsIdle :=
  ⟨State.statusWord_eq_zero rfl rfl rfl rfl, rfl, rfl, rfl, rfl, rfl, rfl, rfl, (step_no_line rfl rfl).trans (unitTurn_idle rfl rfl)⟩

/-- Settles O59: memory and variables are empty, STATUS is 0, and nothing is in flight or recorded. -/
theorem resetMeetsTheInvariant : Obligations.ResetMeetsTheInvariant where
  memory := reset_memory_wf
  vars := .nil
  err := Nat.zero_le _
  rv := nofun
  busyErr := nofun
  taint := nofun
  halted := nofun

end
